-- ==== Sys2Proof/Word.lean ====
section
/-! DEFINITION. The two word types of the core (00_scope.md R5, R8): an 8-bit byte and a 16-bit address word.
Arithmetic on them is that of `BitVec`: `+` and `-` wrap modulo 256 and modulo 65536 (R9's add8, add16, sub16). -/

namespace Sys2Proof

/-- An 8-bit value: a register, a memory byte, an operand byte (00_scope.md R8). -/
abbrev Byte := BitVec 8

/-- A 16-bit value: an address, the program counter, a memory word (00_scope.md R8). -/
abbrev Addr := BitVec 16

end Sys2Proof
end

