-- ==== Sys2Proof/Syntax.lean ====
section
/-! DEFINITION. The instructions of the core: one constructor per row of the opcode map (30_encoding.md R59), with the
operand the row's mode takes (R57, R58). -/

namespace Sys2Proof

/-- The addressing modes, one per instruction format (30_encoding.md R57). -/
inductive Mode where
  | implied
  | immediate
  | zeroPage
  | zeroPageX
  | absolute
  | absoluteX
  | indirect
  | relative
  deriving DecidableEq, Repr

/-- The mnemonics of the opcode map (30_encoding.md R59). -/
inductive Mnemonic where
  | lda | sta | jsr | rts | jmp | pha | php | pla | plp | tsx | txs | txa | and | bit | inc | beq | nop | brk | rti
  deriving DecidableEq, Repr

/-- The 25 instructions, in the order of 30_encoding.md R59. An 8-bit operand is `imm8` or `zp8`, a 16-bit one is the
assembled word `abs16` (R58). BEQ carries its displacement as the signed number R58 reads it as; `Instr.wellFormed` keeps
it in the range of a byte.
DESIGN CHOICE (log entry 10), safe: only displacements of that range have an encoding. -/
inductive Instr where
  | ldaImm (imm8 : Byte)
  | ldaZp (zp8 : Byte)
  | ldaZpX (zp8 : Byte)
  | ldaAbs (abs16 : Addr)
  | staZp (zp8 : Byte)
  | staAbs (abs16 : Addr)
  | jsr (abs16 : Addr)
  | rts
  | jmpAbs (abs16 : Addr)
  | jmpInd (abs16 : Addr)
  | pha
  | php
  | pla
  | plp
  | tsx
  | txs
  | txa
  | andImm (imm8 : Byte)
  | bitZp (zp8 : Byte)
  | incZpX (zp8 : Byte)
  | incAbsX (abs16 : Addr)
  | beq (off : Int)
  | nop
  | brk
  | rti
  deriving DecidableEq, Repr

/-- The instruction's mnemonic (30_encoding.md R59). -/
def Instr.mnemonic : Instr → Mnemonic
  | .ldaImm _ => .lda
  | .ldaZp _ => .lda
  | .ldaZpX _ => .lda
  | .ldaAbs _ => .lda
  | .staZp _ => .sta
  | .staAbs _ => .sta
  | .jsr _ => .jsr
  | .rts => .rts
  | .jmpAbs _ => .jmp
  | .jmpInd _ => .jmp
  | .pha => .pha
  | .php => .php
  | .pla => .pla
  | .plp => .plp
  | .tsx => .tsx
  | .txs => .txs
  | .txa => .txa
  | .andImm _ => .and
  | .bitZp _ => .bit
  | .incZpX _ => .inc
  | .incAbsX _ => .inc
  | .beq _ => .beq
  | .nop => .nop
  | .brk => .brk
  | .rti => .rti

/-- The instruction's addressing mode (30_encoding.md R59). -/
def Instr.mode : Instr → Mode
  | .ldaImm _ => .immediate
  | .ldaZp _ => .zeroPage
  | .ldaZpX _ => .zeroPageX
  | .ldaAbs _ => .absolute
  | .staZp _ => .zeroPage
  | .staAbs _ => .absolute
  | .jsr _ => .absolute
  | .rts => .implied
  | .jmpAbs _ => .absolute
  | .jmpInd _ => .indirect
  | .pha => .implied
  | .php => .implied
  | .pla => .implied
  | .plp => .implied
  | .tsx => .implied
  | .txs => .implied
  | .txa => .implied
  | .andImm _ => .immediate
  | .bitZp _ => .zeroPage
  | .incZpX _ => .zeroPageX
  | .incAbsX _ => .absoluteX
  | .beq _ => .relative
  | .nop => .implied
  | .brk => .implied
  | .rti => .implied

end Sys2Proof
end

