-- ==== Sys2Proof/WellFormed.lean ====
section
/-! DEFINITION. Which terms of `Instr` are instructions. Every operand but one has exactly the width its encoding field
has; the displacement of BEQ is a signed number and must lie in the range of its byte. -/

namespace Sys2Proof

/-- A relative displacement is in the range of a signed byte, -128 to +127 (30_encoding.md R58, R64). -/
def displacementFits (off : Int) : Bool := decide (-128 ≤ off ∧ off ≤ 127)

/-- The instruction has an encoding: each operand fits its field (30_encoding.md R57, R58). -/
def Instr.wellFormed : Instr → Bool
  | .beq off => displacementFits off
  | .ldaImm _ | .ldaZp _ | .ldaZpX _ | .ldaAbs _ | .staZp _ | .staAbs _ | .jsr _ | .rts | .jmpAbs _ | .jmpInd _
  | .pha | .php | .pla | .plp | .tsx | .txs | .txa | .andImm _ | .bitZp _ | .incZpX _ | .incAbsX _ | .nop | .brk
  | .rti => true

end Sys2Proof
end

