-- ==== Sys2Proof/Decode.lean ====
section
/-! DEFINITION. From bytes to instructions and back (30_encoding.md R56 to R61). The decoder is total on byte lists and
rejects by name; the encoder is written from the same opcode map. -/

namespace Sys2Proof

/-- lo(w) = w[7:0] (00_scope.md R9). -/
def loByte (w : Addr) : Byte := w.extractLsb' 0 8

/-- hi(w) = w[15:8] (00_scope.md R9). -/
def hiByte (w : Addr) : Byte := w.extractLsb' 8 8

/-- The word h * 256 + l, written (h, l) in 00_scope.md R9. -/
def joinBytes (h l : Byte) : Addr := h ++ l

/-- The byte of a signed displacement, two's complement (30_encoding.md R58). -/
def displacementByte (off : Int) : Byte := BitVec.ofInt 8 off

/-- Why a list of bytes is no instruction. -/
inductive DecodeError where
  /-- The first byte is one of the 231 unassigned ones (30_encoding.md R62). -/
  | unknownOpcode (op : Byte)
  /-- The list is empty. DESIGN CHOICE (log entry 11), safe: the engine never hands the decoder such a list. -/
  | noOpcode
  /-- The list ends before the instruction's operand bytes do. DESIGN CHOICE (log entry 11), safe. -/
  | noOperand
  deriving DecidableEq, Repr

/-- The instruction and the bytes after it, or why there is none. -/
abbrev Decoded := Except DecodeError (Instr × List Byte)

/-- The Implied format: no operand byte (30_encoding.md R57). -/
def takeNone (i : Instr) (rest : List Byte) : Decoded := .ok (i, rest)

/-- The two-byte formats: one operand byte (30_encoding.md R57). -/
def takeByte (f : Byte → Instr) : List Byte → Decoded
  | b :: rest => .ok (f b, rest)
  | [] => .error .noOperand

/-- The three-byte formats: the low byte first (30_encoding.md R57, 20_memory.md R39). -/
def takeWord (f : Addr → Instr) : List Byte → Decoded
  | lo :: hi :: rest => .ok (f (joinBytes hi lo), rest)
  | [_] => .error .noOperand
  | [] => .error .noOperand

/-- The opcode map, by opcode byte (30_encoding.md R60, R61): the first byte alone fixes the instruction and its length
(R56); every byte outside the map is unknown. -/
def decodeOpcode (op : Byte) (rest : List Byte) : Decoded :=
  match op with
  | 0x00#8 => takeNone .brk rest
  | 0x08#8 => takeNone .php rest
  | 0x20#8 => takeWord .jsr rest
  | 0x24#8 => takeByte .bitZp rest
  | 0x28#8 => takeNone .plp rest
  | 0x29#8 => takeByte .andImm rest
  | 0x40#8 => takeNone .rti rest
  | 0x48#8 => takeNone .pha rest
  | 0x4C#8 => takeWord .jmpAbs rest
  | 0x60#8 => takeNone .rts rest
  | 0x68#8 => takeNone .pla rest
  | 0x6C#8 => takeWord .jmpInd rest
  | 0x85#8 => takeByte .staZp rest
  | 0x8A#8 => takeNone .txa rest
  | 0x8D#8 => takeWord .staAbs rest
  | 0x9A#8 => takeNone .txs rest
  | 0xA5#8 => takeByte .ldaZp rest
  | 0xA9#8 => takeByte .ldaImm rest
  | 0xAD#8 => takeWord .ldaAbs rest
  | 0xB5#8 => takeByte .ldaZpX rest
  | 0xBA#8 => takeNone .tsx rest
  | 0xEA#8 => takeNone .nop rest
  | 0xF0#8 => takeByte (fun off8 => .beq off8.toInt) rest
  | 0xF6#8 => takeByte .incZpX rest
  | 0xFE#8 => takeWord .incAbsX rest
  | _ => .error (.unknownOpcode op)

/-- The instruction at the head of a list of bytes, with the bytes after it. -/
def decode : List Byte → Decoded
  | op :: rest => decodeOpcode op rest
  | [] => .error .noOpcode

/-- The instruction's opcode byte (30_encoding.md R59). -/
def Instr.opcode : Instr → Byte
  | .ldaImm _ => 0xA9
  | .ldaZp _ => 0xA5
  | .ldaZpX _ => 0xB5
  | .ldaAbs _ => 0xAD
  | .staZp _ => 0x85
  | .staAbs _ => 0x8D
  | .jsr _ => 0x20
  | .rts => 0x60
  | .jmpAbs _ => 0x4C
  | .jmpInd _ => 0x6C
  | .pha => 0x48
  | .php => 0x08
  | .pla => 0x68
  | .plp => 0x28
  | .tsx => 0xBA
  | .txs => 0x9A
  | .txa => 0x8A
  | .andImm _ => 0x29
  | .bitZp _ => 0x24
  | .incZpX _ => 0xF6
  | .incAbsX _ => 0xFE
  | .beq _ => 0xF0
  | .nop => 0xEA
  | .brk => 0x00
  | .rti => 0x40

/-- The operand bytes of an absolute word: low byte first (20_memory.md R39). -/
def wordBytes (w : Addr) : List Byte := [loByte w, hiByte w]

/-- The instruction's operand bytes in increasing address order (30_encoding.md R57). -/
def Instr.operandBytes : Instr → List Byte
  | .ldaImm imm8 => [imm8]
  | .ldaZp zp8 => [zp8]
  | .ldaZpX zp8 => [zp8]
  | .ldaAbs abs16 => wordBytes abs16
  | .staZp zp8 => [zp8]
  | .staAbs abs16 => wordBytes abs16
  | .jsr abs16 => wordBytes abs16
  | .rts => []
  | .jmpAbs abs16 => wordBytes abs16
  | .jmpInd abs16 => wordBytes abs16
  | .pha => []
  | .php => []
  | .pla => []
  | .plp => []
  | .tsx => []
  | .txs => []
  | .txa => []
  | .andImm imm8 => [imm8]
  | .bitZp zp8 => [zp8]
  | .incZpX zp8 => [zp8]
  | .incAbsX abs16 => wordBytes abs16
  | .beq off => [displacementByte off]
  | .nop => []
  | .brk => []
  | .rti => []

/-- The bytes of an instruction: its opcode, then its operand bytes (30_encoding.md R56). -/
def encode (i : Instr) : List Byte := i.opcode :: i.operandBytes

/-- The instruction's length in bytes, fixed by its mode (30_encoding.md R57). -/
def Mode.length : Mode → Nat
  | .implied => 1
  | .immediate => 2
  | .zeroPage => 2
  | .zeroPageX => 2
  | .absolute => 3
  | .absoluteX => 3
  | .indirect => 3
  | .relative => 2

/-- Byte k of an instruction whose bits are w, of which the opcode table gives nbits: bits 8k+7 to 8k, those at nbits
and above read as 0. -/
def tableByte (nbits w k : Nat) : Byte := BitVec.ofNat 8 ((w % 2 ^ nbits) >>> (8 * k))

/-- The bytes of such an instruction, up to the longest length, in the order the hardware stores them. -/
def tableBytes (nbits w : Nat) : List Byte := [tableByte nbits w 0, tableByte nbits w 1, tableByte nbits w 2]

/-- The instruction the decoder reads from bits numbered as spec/opcode_table.json numbers them. -/
def decodeTableWord (nbits w : Nat) : Option Instr :=
  match decode (tableBytes nbits w) with
  | .ok (i, _) => some i
  | .error _ => none

end Sys2Proof
end

