-- ==== Sys2Proof/Config.lean ====
section
/-! DEFINITION. What an implementation of the core fixes: the four named parameters the spec's model "takes as
arguments" (00_scope.md R7), with the spec's defaults, and the fixed sizes (R5, R6). The spec leaves no result undefined,
so there is no free value here. -/

namespace Sys2Proof

/-- The bit of a result that the shared update copies into N: "7 or 6" (00_scope.md R7, 40_engine.md R86). -/
inductive NegativeBit where
  | bit7
  | bit6
  deriving DecidableEq, Repr

/-- The bit's number. -/
def NegativeBit.index : NegativeBit → Nat
  | .bit7 => 7
  | .bit6 => 6

/-- The named parameters of 00_scope.md R7. A State carries one value of this type, which no step and no host action
changes, so that every statement about all states is a statement for all parameter values.
DESIGN CHOICE (log entry 1), safe: it leaves the parameters free. -/
structure Params where
  /-- The address reset loads into PC, in the literal form (92_eei_decisions.md D3). -/
  resetVector : Addr
  /-- The address of the little-endian word BRK loads into PC (92_eei_decisions.md D5). -/
  irqVector : Addr
  /-- 92_eei_decisions.md D7. -/
  negativeBit : NegativeBit
  /-- Whether INC updates Z and N (92_eei_decisions.md D8). -/
  incUpdatesZN : Bool
  deriving DecidableEq, Repr

/-- The defaults of 00_scope.md R7. -/
def Params.default : Params where
  resetVector := 0xFFFC
  irqVector := 0xFFFE
  negativeBit := .bit7
  incUpdatesZN := true

/-- The number of bytes of the one address space (20_memory.md R32). -/
def Config.memorySize : Nat := 65536

/-- What an address the memory does not list reads as: reset zero-fills all of memory (20_memory.md R38). -/
def Config.unlistedByte : Byte := 0x00

/-- RESET_SP (00_scope.md R6). -/
def Config.resetSP : Byte := 0xFF

end Sys2Proof
end

