-- ==== Sys2Proof/Machine/State.lean ====
section
/-! DEFINITION. The machine's state (10_state.md R14, the memory of 20_memory.md R32, and the parameters of
00_scope.md R7) as plain data; the reasons a step or a host action can stop; the states after reset and at construction. -/

namespace Sys2Proof.Machine

/-- The eight status flags, each stored on its own (10_state.md R22). -/
structure Flags where
  /-- carry -/
  c : Bool
  /-- zero -/
  z : Bool
  /-- interrupt-disable; masks nothing (60_exceptions.md R122) -/
  i : Bool
  /-- decimal; changes nothing (45_logic_arith.md R106) -/
  d : Bool
  /-- break -/
  b : Bool
  /-- unused, an ordinary storage bit (92_eei_decisions.md D16) -/
  u : Bool
  /-- overflow -/
  v : Bool
  /-- negative -/
  n : Bool
  deriving DecidableEq, Repr

/-- The names of the flags (10_state.md R22), for the host's access to one flag (R16). -/
inductive FlagName where
  | c | z | i | d | b | u | v | n
  deriving DecidableEq, Repr

/-- run_state (10_state.md R28). -/
inductive RunState where
  /-- not inside an execute call and no call since the last reset or construction -/
  | idle
  /-- inside an execute call -/
  | running
  /-- the last call ended cleanly -/
  | halted
  /-- the last call ended with a fatal fault -/
  | faulted
  deriving DecidableEq, Repr

/-- halt_reason: why the last call halted (10_state.md R28). -/
inductive HaltReason where
  | none
  | budgetExhausted
  | unknownOpcode
  deriving DecidableEq, Repr

/-- fault_reason: which fatal fault ended the last call (10_state.md R28). -/
inductive FaultReason where
  | none
  | cycleUnderflow
  | notReset
  | addressOutOfRange
  deriving DecidableEq, Repr

/-- The memory of 65536 bytes (20_memory.md R32) as the list of its bytes that differ from `Config.unlistedByte`,
addresses strictly rising (`Memory.wf` in Machine/Memory.lean). -/
abbrev Memory := List Host.Cell

/-- Everything the spec gives the machine, and the parameters. -/
@[ext]
structure State where
  /-- the accumulator (10_state.md R18) -/
  a : Byte
  /-- the index register (10_state.md R18) -/
  x : Byte
  /-- the third general register, which no instruction uses (10_state.md R18, R19) -/
  y : Byte
  /-- the program counter (10_state.md R20) -/
  pc : Addr
  /-- the stack pointer (10_state.md R21) -/
  sp : Byte
  /-- the status flags P (10_state.md R22) -/
  flags : Flags
  /-- the cycle budget, of no bounded width (10_state.md R27) -/
  budget : Nat
  runState : RunState
  /-- whether reset has run since construction (10_state.md R28) -/
  resetDone : Bool
  haltReason : HaltReason
  faultReason : FaultReason
  /-- the bound memory (20_memory.md R32) -/
  mem : Memory
  /-- the named parameters (00_scope.md R7). DESIGN CHOICE (log entry 1), safe. -/
  params : Params
  deriving DecidableEq, Repr

/-- Why a step or a host action stops without a next state. -/
inductive Fault where
  /-- Raised by `step` in a state that is already FAULTED, with the fault the core recorded (60_exceptions.md R117: "a
  model must treat a FAULTED state as a failure of the run"). DESIGN CHOICE (log entries 3 and 4); safe. -/
  | fatal (r : FaultReason)
  /-- Raised by `step` in RUNNING, and by a host read, before the first reset: no register and no memory byte then holds a
  value (10_state.md R17: "a read of any of them in that interval as a fault, not as zero"). DESIGN CHOICE (log entry 5); safe. -/
  | noValueBeforeReset
  /-- Raised by a host access to an address of 65536 or more, never by the core (60_exceptions.md R119).
  DESIGN CHOICE (log entry 7); safe. -/
  | addressOutOfRange
  deriving DecidableEq, Repr

/-- What the model gives no meaning to. -/
inductive Refusal where
  /-- Raised by a refused arm of `exec`; every instruction has its meaning, so no arm raises it. Safe. -/
  | notModelled (mnemonic : String)
  /-- Raised by every host action while the core is RUNNING, when the host has no control (10_state.md R16,
  70_reset_and_hazards.md R134). DEDUCED (log entry 6); safe. -/
  | hostWhileRunning
  deriving DecidableEq, Repr

/-- Every flag 0. -/
def Flags.clear : Flags :=
  { c := false, z := false, i := false, d := false, b := false, u := false, v := false, n := false }

/-- The machine right after reset, with the default parameters (10_state.md R31, 70_reset_and_hazards.md R134). -/
def State.reset : State where
  a := 0x00
  x := 0x00
  y := 0x00
  pc := Params.default.resetVector
  sp := Config.resetSP
  flags := Flags.clear
  budget := 0
  runState := .idle
  resetDone := true
  haltReason := .none
  faultReason := .none
  mem := []
  params := Params.default

/-- The machine at construction: the control state as 10_state.md R17 gives it. No other element holds a value; what
stands in those fields is never read, since a host read and a step fault while `resetDone` is false.
DESIGN CHOICE (log entry 5), safe. -/
def State.constructed (p : Params) : State where
  a := 0x00
  x := 0x00
  y := 0x00
  pc := 0x0000
  sp := 0x00
  flags := Flags.clear
  budget := 0
  runState := .idle
  resetDone := false
  haltReason := .none
  faultReason := .none
  mem := []
  params := p

end Sys2Proof.Machine
end

