-- ==== Sys2Proof/Machine/Flags.lean ====
section
/-! DEFINITION. Every flag computation: pack and unpack (10_state.md R23, R24), the shared Z and N update
(40_engine.md R86), the update of BIT (45_logic_arith.md R108), and the host's access to one flag (10_state.md R16). -/

namespace Sys2Proof.Machine

/-- A flag shifted to bit k of a byte (10_state.md R23). -/
def flagAt (f : Bool) (k : Nat) : Byte := (if f then 1#8 else 0#8) <<< k

/-- pack(P): bit 0 is C and bit 7 is N (10_state.md R23). -/
def Flags.pack (f : Flags) : Byte :=
  flagAt f.c 0 ||| flagAt f.z 1 ||| flagAt f.i 2 ||| flagAt f.d 3 ||| flagAt f.b 4 ||| flagAt f.u 5 ||| flagAt f.v 6
    ||| flagAt f.n 7

/-- unpack(b): all eight flags from one byte, none ignored or forced (10_state.md R24). -/
def unpackFlags (b : Byte) : Flags where
  c := b.getLsbD 0
  z := b.getLsbD 1
  i := b.getLsbD 2
  d := b.getLsbD 3
  b := b.getLsbD 4
  u := b.getLsbD 5
  v := b.getLsbD 6
  n := b.getLsbD 7

/-- setZN(v): Z from v = 0, N from bit NEGATIVE_BIT of v; no other flag (40_engine.md R86). -/
def Flags.withZN (f : Flags) (p : Params) (v : Byte) : Flags :=
  { f with z := decide (v = 0), n := v.getLsbD p.negativeBit.index }

/-- The flags BIT leaves: Z from A AND m, N and V from bits 7 and 6 of m; NEGATIVE_BIT does not apply
(45_logic_arith.md R108). -/
def Flags.withBitTest (f : Flags) (acc m : Byte) : Flags :=
  { f with z := decide (acc &&& m = 0), n := m.getLsbD 7, v := m.getLsbD 6 }

/-- The flags BRK leaves: B and I set, after the old flags are pushed (47_interrupt.md R113). -/
def Flags.withBreak (f : Flags) : Flags := { f with b := true, i := true }

/-- One flag by name. -/
def Flags.get (f : Flags) : FlagName → Bool
  | .c => f.c
  | .z => f.z
  | .i => f.i
  | .d => f.d
  | .b => f.b
  | .u => f.u
  | .v => f.v
  | .n => f.n

/-- The flags with one replaced. -/
def Flags.set (f : Flags) (name : FlagName) (v : Bool) : Flags :=
  match name with
  | .c => { f with c := v }
  | .z => { f with z := v }
  | .i => { f with i := v }
  | .d => { f with d := v }
  | .b => { f with b := v }
  | .u => { f with u := v }
  | .v => { f with v := v }
  | .n => { f with n := v }

end Sys2Proof.Machine
end

