-- ==== Sys2Proof/Machine/Memory.lean ====
section
/-! DEFINITION. The memory as a canonical list of cells: reading and writing one byte (20_memory.md R34, R35), and the
canonical form. -/

namespace Sys2Proof.Machine

/-- The byte at an address; an address the list does not hold reads as `Config.unlistedByte`. -/
def Memory.read : Memory → Nat → Byte
  | [], _ => Config.unlistedByte
  | cell :: rest, addr => if cell.1 = addr then cell.2 else Memory.read rest addr

/-- The list without any cell of the address. -/
def Memory.without : Memory → Nat → Memory
  | [], _ => []
  | cell :: rest, addr => if cell.1 = addr then Memory.without rest addr else cell :: Memory.without rest addr

/-- The list with one more cell, before the first cell of a higher address. -/
def Memory.place : Memory → Nat → Byte → Memory
  | [], addr, v => [(addr, v)]
  | cell :: rest, addr, v =>
    if addr < cell.1 then (addr, v) :: cell :: rest else cell :: Memory.place rest addr v

/-- The memory with one byte replaced (20_memory.md R35). Writing what an unlisted address reads as removes the cell. -/
def Memory.write (m : Memory) (addr : Nat) (v : Byte) : Memory :=
  if v = Config.unlistedByte then Memory.without m addr else Memory.place (Memory.without m addr) addr v

/-- The canonical form from an address on: cells in strictly rising address order from `low`, every address inside the
memory, and no cell equal to what an unlisted address reads as. -/
def Memory.wfFrom : Nat → Memory → Bool
  | _, [] => true
  | low, cell :: rest =>
    decide (low ≤ cell.1) && decide (cell.1 < Config.memorySize) && decide (cell.2 ≠ Config.unlistedByte)
      && Memory.wfFrom (cell.1 + 1) rest

/-- The canonical form: equal memories are equal lists. -/
def Memory.wf (m : Memory) : Bool := Memory.wfFrom 0 m

end Sys2Proof.Machine
end

