-- ==== Sys2Proof/Machine/Ops.lean ====
section
/-! DEFINITION. The shared operations: bytes and words of memory (20_memory.md R34 to R37), the stack page controller
(R45 to R49), the program counter's advance (40_engine.md R71), the shared result updates, and the software interrupt's
entry and return (60_exceptions.md R124, R125). -/

namespace Sys2Proof.Machine

/-! ### Memory (20_memory.md section 1) -/

/-- MemRead(addr, 1) (20_memory.md R34). -/
def State.readByte (s : State) (addr : Addr) : Byte := Memory.read s.mem addr.toNat

/-- MemWrite(addr, 1, v) (20_memory.md R35). -/
def State.writeByte (s : State) (addr : Addr) (v : Byte) : State :=
  { s with mem := Memory.write s.mem addr.toNat v }

/-- MemRead(addr, 2): low byte at addr, high byte at add16(addr, 1) (20_memory.md R36). -/
def State.readWord (s : State) (addr : Addr) : Addr := joinBytes (s.readByte (addr + 1)) (s.readByte addr)

/-- MemWrite(addr, 2, v): low byte at addr, high byte at add16(addr, 1) (20_memory.md R37). -/
def State.writeWord (s : State) (addr : Addr) (v : Addr) : State :=
  (s.writeByte addr (loByte v)).writeByte (addr + 1) (hiByte v)

/-- Bytes stored at consecutive addresses, the first at `addr`. -/
def State.writeBytes (s : State) (addr : Addr) : List Byte → State
  | [] => s
  | v :: vs => (s.writeByte addr v).writeBytes (addr + 1) vs

/-! ### Program counter -/

/-- PC moved past `n` program bytes, one add16 per byte fetched (40_engine.md R70, R71). -/
def State.advancePc (s : State) (n : Nat) : State := { s with pc := s.pc + BitVec.ofNat 16 n }

/-! ### Stack page (20_memory.md section 4) -/

/-- stack_addr(SP) = 0x0100 | SP (20_memory.md R45). -/
def stackAddr (sp : Byte) : Addr := 0x0100#16 ||| sp.setWidth 16

/-- Push8(v): write at the stack address, then decrement SP (20_memory.md R46). -/
def State.push8 (s : State) (v : Byte) : State :=
  { s.writeByte (stackAddr s.sp) v with sp := s.sp - 1 }

/-- Pop8(): increment SP, then read at the new stack address (20_memory.md R47). -/
def State.pop8 (s : State) : Byte × State :=
  (s.readByte (stackAddr (s.sp + 1)), { s with sp := s.sp + 1 })

/-- Push16(w): high byte, then low byte (20_memory.md R48). -/
def State.push16 (s : State) (w : Addr) : State := (s.push8 (hiByte w)).push8 (loByte w)

/-- Pop16(): low byte, then high byte (20_memory.md R49). -/
def State.pop16 (s : State) : Addr × State :=
  let low := s.pop8
  let high := low.2.pop8
  (joinBytes high.1 low.1, high.2)

/-! ### Shared result updates -/

/-- setZN(v) on the state's flags (40_engine.md R86). -/
def State.setZN (s : State) (v : Byte) : State := { s with flags := s.flags.withZN s.params v }

/-- A <- v; setZN(A): the tail of LDA, PLA, TXA and AND. -/
def State.loadA (s : State) (v : Byte) : State := { s with a := v }.setZN v

/-- X <- v; setZN(X): the tail of TSX. -/
def State.loadX (s : State) (v : Byte) : State := { s with x := v }.setZN v

/-- The byte at ea plus one, modulo 256, written back; Z and N from it when INC_UPDATES_ZN holds
(45_logic_arith.md R109, R110). The read comes before the write (20_memory.md R51). -/
def State.incrementByte (s : State) (ea : Addr) : State :=
  let r := s.readByte ea + 1
  let t := s.writeByte ea r
  if t.params.incUpdatesZN then t.setZN r else t

/-! ### Software interrupt (60_exceptions.md section 4) -/

/-- Interrupt entry: the saved word and the flags as they were go on the stack, PC takes the word at IRQ_VECTOR, which is
read after the three pushes, and B and I are set (60_exceptions.md R124, 47_interrupt.md R113). -/
def State.enterInterrupt (s : State) (saved : Addr) : State :=
  let pushed := (s.push16 saved).push8 s.flags.pack
  { pushed with pc := pushed.readWord pushed.params.irqVector, flags := pushed.flags.withBreak }

/-- Interrupt return: all eight flags from the stack, then PC from the saved word plus one (60_exceptions.md R125,
47_interrupt.md R114). -/
def State.leaveInterrupt (s : State) : State :=
  let status := s.pop8
  let saved := status.2.pop16
  { saved.2 with flags := unpackFlags status.1, pc := saved.1 + 1 }

end Sys2Proof.Machine
end

