-- ==== Sys2Proof/Machine/Operands.lean ====
section
/-! DEFINITION. The addressing-mode resolver (40_engine.md section 3): the effective address of every operand form. An
immediate operand is its own value (R75), an implied form has none (R74). X is the only index register (R77). -/

namespace Sys2Proof.Machine

/-- zext_16(v) (00_scope.md R9). -/
def zext16 (v : Byte) : Addr := v.setWidth 16

/-- Zero Page (40_engine.md R76). -/
def eaZeroPage (zp8 : Byte) : Addr := zext16 zp8

/-- Zero Page,X: the sum wraps within one byte (40_engine.md R77). -/
def eaZeroPageX (s : State) (zp8 : Byte) : Addr := zext16 (zp8 + s.x)

/-- Absolute (40_engine.md R78). -/
def eaAbsolute (abs16 : Addr) : Addr := abs16

/-- Absolute,X: the sum wraps modulo 65536 (40_engine.md R79). -/
def eaAbsoluteX (s : State) (abs16 : Addr) : Addr := abs16 + zext16 s.x

/-- Indirect: the word stored at the pointer, its second byte at add16(ptr, 1) (40_engine.md R80). -/
def eaIndirect (s : State) (ptr : Addr) : Addr := s.readWord ptr

/-- Relative: the displacement, sign-extended, added to the address of the next instruction, modulo 65536
(40_engine.md R81). -/
def branchTarget (next : Addr) (off : Int) : Addr := next + BitVec.ofInt 16 off

end Sys2Proof.Machine
end

