-- ==== Sys2Proof/Machine/BranchNop.lean ====
section
/-! DEFINITION. BEQ and NOP (46_branch_nop.md). Each meaning starts with PC at the byte after the opcode
(40_engine.md R70). -/

namespace Sys2Proof.Machine

/-- BEQ: taken when Z is set (46_branch_nop.md R111). -/
def execBeq (off : Int) (s : State) : Host.Outcome State Fault Refusal :=
  let t := s.advancePc 1
  .next (if t.flags.z then { t with pc := branchTarget t.pc off } else t)

/-- NOP: PC has already advanced past the opcode (46_branch_nop.md R112). -/
def execNop (s : State) : Host.Outcome State Fault Refusal :=
  .next s

end Sys2Proof.Machine
end

