-- ==== Sys2Proof/Machine/Interrupt.lean ====
section
/-! DEFINITION. BRK and RTI, the core's whole trap mechanism (47_interrupt.md). Each meaning starts with PC at the byte
after the opcode (40_engine.md R70). -/

namespace Sys2Proof.Machine

/-- BRK: the saved word is the address of the BRK itself (47_interrupt.md R113). -/
def execBrk (s : State) : Host.Outcome State Fault Refusal :=
  .next (s.enterInterrupt (s.pc - 1))

/-- RTI (47_interrupt.md R114). -/
def execRti (s : State) : Host.Outcome State Fault Refusal :=
  .next s.leaveInterrupt

end Sys2Proof.Machine
end

