-- ==== Sys2Proof/Machine/Jump.lean ====
section
/-! DEFINITION. JSR, RTS and JMP (42_jump_subroutine.md). Each meaning starts with PC at the byte after the opcode
(40_engine.md R70). -/

namespace Sys2Proof.Machine

/-- JSR abs16: both target bytes are fetched before the first push; the pushed word is the address of the last byte of the
JSR (42_jump_subroutine.md R93). -/
def execJsr (abs16 : Addr) (s : State) : Host.Outcome State Fault Refusal :=
  let t := s.advancePc 2
  .next { t.push16 (t.pc - 1) with pc := eaAbsolute abs16 }

/-- RTS: PC <- add16(Pop16(), 1) (42_jump_subroutine.md R94). -/
def execRts (s : State) : Host.Outcome State Fault Refusal :=
  let popped := s.pop16
  .next { popped.2 with pc := popped.1 + 1 }

/-- JMP abs16 (42_jump_subroutine.md R96). -/
def execJmpAbs (abs16 : Addr) (s : State) : Host.Outcome State Fault Refusal :=
  let t := s.advancePc 2
  .next { t with pc := eaAbsolute abs16 }

/-- JMP (abs16) (42_jump_subroutine.md R97). -/
def execJmpInd (abs16 : Addr) (s : State) : Host.Outcome State Fault Refusal :=
  let t := s.advancePc 2
  .next { t with pc := eaIndirect t abs16 }

end Sys2Proof.Machine
end

