-- ==== Sys2Proof/Machine/LoadStore.lean ====
section
/-! DEFINITION. LDA and STA (41_load_store.md). Each meaning starts with PC at the byte after the opcode
(40_engine.md R70), moves PC past the operand bytes, and leaves the charge of cycles to the engine (R83).
DESIGN CHOICE (log entry 9), safe. -/

namespace Sys2Proof.Machine

/-- LDA #imm8 (41_load_store.md R87). -/
def execLdaImm (imm8 : Byte) (s : State) : Host.Outcome State Fault Refusal :=
  .next ((s.advancePc 1).loadA imm8)

/-- LDA zp8 (41_load_store.md R88). -/
def execLdaZp (zp8 : Byte) (s : State) : Host.Outcome State Fault Refusal :=
  let t := s.advancePc 1
  .next (t.loadA (t.readByte (eaZeroPage zp8)))

/-- LDA zp8,X (41_load_store.md R89). -/
def execLdaZpX (zp8 : Byte) (s : State) : Host.Outcome State Fault Refusal :=
  let t := s.advancePc 1
  .next (t.loadA (t.readByte (eaZeroPageX t zp8)))

/-- LDA abs16 (41_load_store.md R90). -/
def execLdaAbs (abs16 : Addr) (s : State) : Host.Outcome State Fault Refusal :=
  let t := s.advancePc 2
  .next (t.loadA (t.readByte (eaAbsolute abs16)))

/-- STA zp8 (41_load_store.md R91). -/
def execStaZp (zp8 : Byte) (s : State) : Host.Outcome State Fault Refusal :=
  let t := s.advancePc 1
  .next (t.writeByte (eaZeroPage zp8) t.a)

/-- STA abs16 (41_load_store.md R92). -/
def execStaAbs (abs16 : Addr) (s : State) : Host.Outcome State Fault Refusal :=
  let t := s.advancePc 2
  .next (t.writeByte (eaAbsolute abs16) t.a)

end Sys2Proof.Machine
end

