-- ==== Sys2Proof/Machine/LogicArith.lean ====
section
/-! DEFINITION. AND, BIT and INC (45_logic_arith.md). Each meaning starts with PC at the byte after the opcode
(40_engine.md R70). -/

namespace Sys2Proof.Machine

/-- AND #imm8 (45_logic_arith.md R107). -/
def execAndImm (imm8 : Byte) (s : State) : Host.Outcome State Fault Refusal :=
  let t := s.advancePc 1
  .next (t.loadA (t.a &&& imm8))

/-- BIT zp8 (45_logic_arith.md R108). -/
def execBitZp (zp8 : Byte) (s : State) : Host.Outcome State Fault Refusal :=
  let t := s.advancePc 1
  .next { t with flags := t.flags.withBitTest t.a (t.readByte (eaZeroPage zp8)) }

/-- INC zp8,X (45_logic_arith.md R109). -/
def execIncZpX (zp8 : Byte) (s : State) : Host.Outcome State Fault Refusal :=
  let t := s.advancePc 1
  .next (t.incrementByte (eaZeroPageX t zp8))

/-- INC abs16,X (45_logic_arith.md R110). -/
def execIncAbsX (abs16 : Addr) (s : State) : Host.Outcome State Fault Refusal :=
  let t := s.advancePc 2
  .next (t.incrementByte (eaAbsoluteX t abs16))

end Sys2Proof.Machine
end

