-- ==== Sys2Proof/Machine/Stack.lean ====
section
/-! DEFINITION. PHA, PHP, PLA and PLP (43_stack.md). Each meaning starts with PC at the byte after the opcode
(40_engine.md R70). -/

namespace Sys2Proof.Machine

/-- PHA (43_stack.md R98). -/
def execPha (s : State) : Host.Outcome State Fault Refusal :=
  .next (s.push8 s.a)

/-- PHP: B and U are pushed as they are (43_stack.md R99). -/
def execPhp (s : State) : Host.Outcome State Fault Refusal :=
  .next (s.push8 s.flags.pack)

/-- PLA (43_stack.md R100). -/
def execPla (s : State) : Host.Outcome State Fault Refusal :=
  let popped := s.pop8
  .next (popped.2.loadA popped.1)

/-- PLP: all eight flags, none ignored or forced (43_stack.md R101). -/
def execPlp (s : State) : Host.Outcome State Fault Refusal :=
  let popped := s.pop8
  .next { popped.2 with flags := unpackFlags popped.1 }

end Sys2Proof.Machine
end

