-- ==== Sys2Proof/Machine/Transfer.lean ====
section
/-! DEFINITION. TSX, TXS and TXA (44_transfer.md). Each meaning starts with PC at the byte after the opcode
(40_engine.md R70). -/

namespace Sys2Proof.Machine

/-- TSX (44_transfer.md R103). -/
def execTsx (s : State) : Host.Outcome State Fault Refusal :=
  .next (s.loadX s.sp)

/-- TXS: no flag is written (44_transfer.md R104). -/
def execTxs (s : State) : Host.Outcome State Fault Refusal :=
  .next { s with sp := s.x }

/-- TXA (44_transfer.md R105). -/
def execTxa (s : State) : Host.Outcome State Fault Refusal :=
  .next (s.loadA s.x)

end Sys2Proof.Machine
end

