-- ==== Sys2Proof/Machine/Dispatch.lean ====
section
/-! DEFINITION. perform(d) of 40_engine.md R67: one arm per instruction, in the order of 30_encoding.md R59. -/

namespace Sys2Proof.Machine

def exec (i : Instr) (s : State) : Host.Outcome State Fault Refusal :=
  match i with
  | .ldaImm imm8 => Sys2Proof.Machine.execLdaImm imm8 s
  | .ldaZp zp8 => Sys2Proof.Machine.execLdaZp zp8 s
  | .ldaZpX zp8 => Sys2Proof.Machine.execLdaZpX zp8 s
  | .ldaAbs abs16 => Sys2Proof.Machine.execLdaAbs abs16 s
  | .staZp zp8 => Sys2Proof.Machine.execStaZp zp8 s
  | .staAbs abs16 => Sys2Proof.Machine.execStaAbs abs16 s
  | .jsr abs16 => Sys2Proof.Machine.execJsr abs16 s
  | .rts => Sys2Proof.Machine.execRts s
  | .jmpAbs abs16 => Sys2Proof.Machine.execJmpAbs abs16 s
  | .jmpInd abs16 => Sys2Proof.Machine.execJmpInd abs16 s
  | .pha => Sys2Proof.Machine.execPha s
  | .php => Sys2Proof.Machine.execPhp s
  | .pla => Sys2Proof.Machine.execPla s
  | .plp => Sys2Proof.Machine.execPlp s
  | .tsx => Sys2Proof.Machine.execTsx s
  | .txs => Sys2Proof.Machine.execTxs s
  | .txa => Sys2Proof.Machine.execTxa s
  | .andImm imm8 => Sys2Proof.Machine.execAndImm imm8 s
  | .bitZp zp8 => Sys2Proof.Machine.execBitZp zp8 s
  | .incZpX zp8 => Sys2Proof.Machine.execIncZpX zp8 s
  | .incAbsX abs16 => Sys2Proof.Machine.execIncAbsX abs16 s
  | .beq off => Sys2Proof.Machine.execBeq off s
  | .nop => Sys2Proof.Machine.execNop s
  | .brk => Sys2Proof.Machine.execBrk s
  | .rti => Sys2Proof.Machine.execRti s

end Sys2Proof.Machine
end

