-- ==== Sys2Proof/Machine/Engine.lean ====
section
/-! DEFINITION. The engine around the instructions (40_engine.md): cycle costs (R82), the charge (R83), the two clean halts
(R68, R69), the fatal CycleUnderflow (R84), the fetch, and one iteration of the execute loop (R67). -/

namespace Sys2Proof.Machine

/-! ### Cycle costs (40_engine.md R82) -/

/-- The table's cycle count; for BEQ without the page-change cycle (40_engine.md R82, 30_encoding.md R59). -/
def baseCycles : Instr → Nat
  | .ldaImm _ => 2
  | .ldaZp _ => 3
  | .ldaZpX _ => 4
  | .ldaAbs _ => 4
  | .staZp _ => 3
  | .staAbs _ => 4
  | .jsr _ => 6
  | .rts => 6
  | .jmpAbs _ => 3
  | .jmpInd _ => 5
  | .pha => 3
  | .php => 3
  | .pla => 4
  | .plp => 4
  | .tsx => 2
  | .txs => 2
  | .txa => 2
  | .andImm _ => 2
  | .bitZp _ => 3
  | .incZpX _ => 6
  | .incAbsX _ => 7
  | .beq _ => 2
  | .nop => 2
  | .brk => 7
  | .rti => 6

/-- A branch from an instruction whose next instruction is at `next` lands in another page (40_engine.md R82). -/
def crossesPage (next : Addr) (off : Int) : Bool := decide (hiByte next ≠ hiByte (branchTarget next off))

/-- The extra cycle of a BEQ that is taken to another page, from the state before the instruction, PC at its opcode
(40_engine.md R82, 46_branch_nop.md R111). No other cost depends on data. -/
def extraCycles (i : Instr) (s : State) : Nat :=
  match i with
  | .beq off => if s.flags.z && crossesPage (s.pc + 2) off then 1 else 0
  | .ldaImm _ | .ldaZp _ | .ldaZpX _ | .ldaAbs _ | .staZp _ | .staAbs _ | .jsr _ | .rts | .jmpAbs _ | .jmpInd _
  | .pha | .php | .pla | .plp | .tsx | .txs | .txa | .andImm _ | .bitZp _ | .incZpX _ | .incAbsX _ | .nop | .brk
  | .rti => 0

/-- cost(d), from the state before the instruction (40_engine.md R82). -/
def cost (i : Instr) (s : State) : Nat := baseCycles i + extraCycles i s

/-- The largest cost of an instruction (40_engine.md R82: INC abs,X and BRK). -/
def largestCost : Nat := 7

/-! ### Ending a call -/

/-- halt(r): a clean halt (40_engine.md R67). -/
def State.halt (s : State) (r : HaltReason) : State := { s with runState := .halted, haltReason := r }

/-- raise: a fatal fault (40_engine.md R67). The address, opcode, cost and budget that R67 names with CycleUnderflow stay
readable in the state, which does not change (R84). -/
def State.raiseFault (s : State) (r : FaultReason) : State := { s with runState := .faulted, faultReason := r }

/-- charge(n): never a clamp to zero (40_engine.md R83). -/
def State.charge (s : State) (n : Nat) : State :=
  if n ≤ s.budget then { s with budget := s.budget - n } else s.raiseFault .cycleUnderflow

/-! ### Fetch and step -/

/-- The opcode byte and the two bytes after it, each address one add16 on (40_engine.md R71). Reading bytes that turn out not
to belong to the instruction has no effect (20_memory.md R34).
DEDUCED (log entry 8), safe. -/
def State.fetchBytes (s : State) : List Byte :=
  [s.readByte s.pc, s.readByte (s.pc + 1), s.readByte (s.pc + 2)]

/-- A recognised instruction at PC: the cost against the budget before any effect, then its effects with PC past the
opcode, then the charge (40_engine.md R67, R70, R83, R84). CycleUnderflow is a next state, FAULTED.
DESIGN CHOICE (log entry 4), safe. -/
def runInstr (i : Instr) (s : State) : Host.Outcome State Fault Refusal :=
  let c := cost i s
  if s.budget < c then .next (s.raiseFault .cycleUnderflow)
  else
    match exec i (s.advancePc 1) with
    | .next t => .next (t.charge c)
    | .fault r => .fault r
    | .refused r => .refused r

/-- One iteration of the execute loop (40_engine.md R67): the budget first, then the opcode, then the cost
(60_exceptions.md R123). Three bytes are always enough, so the decoder's only error here is an unknown opcode. -/
def runningStep (s : State) : Host.Outcome State Fault Refusal :=
  if s.budget = 0 then .next (s.halt .budgetExhausted)
  else
    match decode s.fetchBytes with
    | .error _ => .next ((s.charge 1).halt .unknownOpcode)
    | .ok (i, _) => runInstr i s

/-- One step of the machine. RUNNING: one iteration of the loop; before the first reset no register holds a value, and the
read of one is a fault (10_state.md R17). IDLE and HALTED: the core does nothing (60_exceptions.md R133). FAULTED: the run has
failed (60_exceptions.md R117).
DESIGN CHOICE (log entries 3 and 5), safe. -/
def engineStep (s : State) : Host.Outcome State Fault Refusal :=
  match s.runState with
  | .idle => .next s
  | .halted => .next s
  | .faulted => .fault (.fatal s.faultReason)
  | .running => if s.resetDone then runningStep s else .fault .noValueBeforeReset

/-! ### The execute call -/

/-- The start of an execute call (40_engine.md R66). -/
def State.beginCall (s : State) (b : Nat) : State :=
  { s with budget := b, haltReason := .none, faultReason := .none, runState := .running }

/-- The host's load of an instruction's bytes at PC, and the start of an execute call with at least the largest cost of
an instruction (70_reset_and_hazards.md R137).
DESIGN CHOICE (log entry 2), safe. -/
def State.loadAndBegin (s : State) (bytes : List Byte) : State :=
  { (s.writeBytes s.pc bytes).beginCall (max s.budget largestCost) with resetDone := true }

end Sys2Proof.Machine
end

