-- ==== Sys2Proof/Machine/Step.lean ====
section
/-! DEFINITION. The machine's step (40_engine.md R67), and the placing of one instruction where it fetches next. -/

namespace Sys2Proof.Machine

/-- One step: see `engineStep`. -/
def step (s : State) : Host.Outcome State Fault Refusal := engineStep s

/-- The state with the instruction of these bits at PC, inside an execute call that can pay for it. The core runs nothing
outside an execute call (60_exceptions.md R133), so the call's control state is set too (log entry 2). -/
def State.withFetchWord (s : State) (nbits w : Nat) : State := s.loadAndBegin (tableBytes nbits w)

end Sys2Proof.Machine
end

