-- ==== Sys2Proof/Machine/HostPort.lean ====
section
/-! DEFINITION. The host control port (40_engine.md R65): reset, execute, and the host's access to the state while the core
is not RUNNING (10_state.md R16). Each action is a function of the state, not a step of the core.
DESIGN CHOICE (log entry 12), safe. -/

namespace Sys2Proof.Machine

/-! ### Codes (10_state.md R29) -/

/-- run_state as a number. -/
def RunState.code : RunState → Nat
  | .idle => 0
  | .running => 1
  | .halted => 2
  | .faulted => 3

/-- halt_reason as a number. -/
def HaltReason.code : HaltReason → Nat
  | .none => 0
  | .budgetExhausted => 1
  | .unknownOpcode => 2

/-- fault_reason as a number. -/
def FaultReason.code : FaultReason → Nat
  | .none => 0
  | .cycleUnderflow => 1
  | .notReset => 2
  | .addressOutOfRange => 3

/-! ### Access rules -/

/-- A host action is possible only while the core is not RUNNING (10_state.md R15, R16).
DEDUCED (log entry 6), safe. -/
def whenStopped {α : Type} (s : State) (answer : Host.Outcome α Fault Refusal) : Host.Outcome α Fault Refusal :=
  match s.runState with
  | .running => .refused .hostWhileRunning
  | .idle => answer
  | .halted => answer
  | .faulted => answer

/-- A host read of an element that holds no value before the first reset (10_state.md R17). -/
def hostRead {α : Type} (s : State) (v : α) : Host.Outcome α Fault Refusal :=
  whenStopped s (if s.resetDone then .next v else .fault .noValueBeforeReset)

/-- A host access to the memory by a number that may be wider than an address (60_exceptions.md R119).
DESIGN CHOICE (log entry 7), safe. -/
def withHostAddress {α : Type} (addr : Nat) (f : Addr → Host.Outcome α Fault Refusal) : Host.Outcome α Fault Refusal :=
  if addr < Config.memorySize then f (BitVec.ofNat 16 addr) else .fault .addressOutOfRange

/-! ### Reads and writes (10_state.md R16) -/

/-- The 8-bit registers the host reads and writes by name. -/
inductive RegName where
  | a | x | y | sp
  deriving DecidableEq, Repr

/-- One 8-bit register. -/
def State.getReg (s : State) : RegName → Byte
  | .a => s.a
  | .x => s.x
  | .y => s.y
  | .sp => s.sp

/-- The state with one 8-bit register replaced. -/
def State.setReg (s : State) (r : RegName) (v : Byte) : State :=
  match r with
  | .a => { s with a := v }
  | .x => { s with x := v }
  | .y => { s with y := v }
  | .sp => { s with sp := v }

def hostReadReg (s : State) (r : RegName) : Host.Outcome Byte Fault Refusal := hostRead s (s.getReg r)

def hostReadPc (s : State) : Host.Outcome Addr Fault Refusal := hostRead s s.pc

def hostReadFlag (s : State) (f : FlagName) : Host.Outcome Bool Fault Refusal := hostRead s (s.flags.get f)

def hostReadByte (s : State) (addr : Nat) : Host.Outcome Byte Fault Refusal :=
  whenStopped s (withHostAddress addr fun a => hostRead s (s.readByte a))

/-- MemRead(addr, 2) from the host's side (20_memory.md R36). -/
def hostReadWord (s : State) (addr : Nat) : Host.Outcome Addr Fault Refusal :=
  whenStopped s (withHostAddress addr fun a => hostRead s (s.readWord a))

/-- The control state and the budget, which hold values from construction on (10_state.md R17). -/
structure ControlView where
  runState : RunState
  resetDone : Bool
  haltReason : HaltReason
  faultReason : FaultReason
  budget : Nat
  deriving DecidableEq, Repr

def hostReadControl (s : State) : Host.Outcome ControlView Fault Refusal :=
  whenStopped s (.next
    { runState := s.runState, resetDone := s.resetDone, haltReason := s.haltReason, faultReason := s.faultReason,
      budget := s.budget })

/-- A write before the first reset is allowed and can not be read back: reset overwrites it (10_state.md R16, R17).
DESIGN CHOICE (log entry 13), safe. -/
def hostWriteReg (s : State) (r : RegName) (v : Byte) : Host.Outcome State Fault Refusal :=
  whenStopped s (.next (s.setReg r v))

def hostWritePc (s : State) (v : Addr) : Host.Outcome State Fault Refusal :=
  whenStopped s (.next { s with pc := v })

def hostWriteFlag (s : State) (f : FlagName) (v : Bool) : Host.Outcome State Fault Refusal :=
  whenStopped s (.next { s with flags := s.flags.set f v })

def hostWriteByte (s : State) (addr : Nat) (v : Byte) : Host.Outcome State Fault Refusal :=
  whenStopped s (withHostAddress addr fun a => .next (s.writeByte a v))

/-- MemWrite(addr, 2, v), "a host loading primitive" (20_memory.md R37). -/
def hostWriteWord (s : State) (addr : Nat) (v : Addr) : Host.Outcome State Fault Refusal :=
  whenStopped s (withHostAddress addr fun a => .next (s.writeWord a v))

/-! ### Reset (70_reset_and_hazards.md R134) -/

/-- reset(), the same from every run_state but RUNNING. Emptying the list zero-fills all 65536 bytes (20_memory.md R38). -/
def hostReset (s : State) : Host.Outcome State Fault Refusal :=
  whenStopped s (.next
    { s with
      pc := s.params.resetVector
      sp := Config.resetSP
      a := 0x00
      x := 0x00
      y := 0x00
      flags := unpackFlags 0x00
      mem := []
      budget := 0
      runState := .idle
      resetDone := true
      haltReason := .none
      faultReason := .none })

/-! ### Execute (40_engine.md R66) -/

/-- What execute returns (40_engine.md R65). -/
structure ExecuteResult where
  runState : RunState
  haltReason : HaltReason
  faultReason : FaultReason
  budget : Nat
  deriving DecidableEq, Repr

/-- The result as the numbers of 10_state.md R29. -/
def ExecuteResult.codes (r : ExecuteResult) : Nat × Nat × Nat × Nat :=
  (r.runState.code, r.haltReason.code, r.faultReason.code, r.budget)

/-- The result read off a state. -/
def State.result (s : State) : ExecuteResult :=
  { runState := s.runState, haltReason := s.haltReason, faultReason := s.faultReason, budget := s.budget }

/-- "while run_state == RUNNING: step()", at most `fuel` times. -/
def callLoop : Nat → State → Host.Outcome State Fault Refusal
  | 0, s => .next s
  | fuel + 1, s =>
    match s.runState with
    | .idle => .next s
    | .halted => .next s
    | .faulted => .next s
    | .running =>
      match step s with
      | .next t => callLoop fuel t
      | .fault r => .fault r
      | .refused r => .refused r

/-- The loop of a call with budget b: b + 1 steps always end it (40_engine.md R72).
DEDUCED (log entry 14), safe. -/
def runCall (s : State) (b : Nat) : Host.Outcome (State × ExecuteResult) Fault Refusal :=
  match callLoop (b + 1) (s.beginCall b) with
  | .next t => .next (t, t.result)
  | .fault r => .fault r
  | .refused r => .refused r

/-- execute(b): FAULTED is sticky and tested first, then NotReset, then the call (40_engine.md R66,
60_exceptions.md R121, R123). -/
def hostExecute (s : State) (b : Nat) : Host.Outcome (State × ExecuteResult) Fault Refusal :=
  whenStopped s
    (if s.runState = .faulted then .next (s, s.result)
     else if s.resetDone then runCall s b
     else .next (s.raiseFault .notReset,
       { runState := .faulted, haltReason := .none, faultReason := .notReset, budget := s.budget }))

end Sys2Proof.Machine
end

