-- ==== Sys2Proof/Safety.lean ====
section
/-! DEFINITION. The terms claims are stated in: a state inside a call, code in memory, the invariants of the machine, and a
call that does not fail. -/

namespace Sys2Proof.Machine

/-- The core is inside an execute call, after a reset (10_state.md R28). -/
def State.live (s : State) : Bool := decide (s.runState = .running) && s.resetDone

/-- The bytes stand at consecutive addresses from `addr` on, each address add16 of the one before (30_encoding.md R56). -/
def State.holds (s : State) (addr : Addr) : List Byte → Bool
  | [] => true
  | b :: bs => decide (s.readByte addr = b) && s.holds (addr + 1) bs

/-- The control state is one that reset, execute and the step can leave (10_state.md R28, 60_exceptions.md R116):
IDLE and RUNNING carry no reason; HALTED carries a halt reason, and BUDGET_EXHAUSTED only with a budget of 0; FAULTED carries
a fault reason, NOT_RESET exactly before the first reset; ADDRESS_OUT_OF_RANGE never stands (R119); a call runs or has halted
only after a reset. -/
def State.controlOk (s : State) : Bool :=
  match s.runState with
  | .idle => decide (s.haltReason = .none ∧ s.faultReason = .none ∧ s.budget = 0)
  | .running => decide (s.haltReason = .none ∧ s.faultReason = .none ∧ s.resetDone = true)
  | .halted =>
    decide (s.haltReason ≠ .none ∧ s.faultReason = .none ∧ s.resetDone = true ∧
      (s.haltReason = .budgetExhausted → s.budget = 0))
  | .faulted =>
    decide (s.haltReason = .none ∧
      ((s.faultReason = .cycleUnderflow ∧ s.resetDone = true) ∨ (s.faultReason = .notReset ∧ s.resetDone = false)))

/-- The invariant of the machine: the memory is in its canonical form and the control state is consistent. -/
def State.inv (s : State) : Bool := Memory.wf s.mem && s.controlOk

/-- What an instruction rule says of one state (00_scope.md R13), `s` with PC at the opcode. `exec`, which starts with PC past
the opcode (40_engine.md R70), answers `t`; and where the core is inside a call, the rule's bytes stand at PC and the budget
pays for the rule's cycles, the step answers `t` with those cycles charged. -/
def State.runsAs (s : State) (code : List Byte) (i : Instr) (cycles : Nat) (t : State) : Prop :=
  exec i { s with pc := s.pc + 1 } = .next t ∧
  (s.live = true → s.holds s.pc code = true → cycles ≤ s.budget →
    step s = .next { t with budget := s.budget - cycles })

/-- The host may call execute and a program runs: the core is IDLE or HALTED after a reset (40_engine.md R66). -/
def State.ready (s : State) : Bool := decide (s.runState = .idle ∨ s.runState = .halted) && s.resetDone

/-- A call that ended with a clean halt. "A claim about a program assumes no fault" (60_exceptions.md R117). -/
def SafeCall (s : State) (b : Nat) (t : State) : Prop := hostExecute s b = .next (t, t.result) ∧ t.runState = .halted

end Sys2Proof.Machine
end

