-- ==== Sys2Proof/Certificates/Slice0/Obligations.lean ====
section
/-! DEFINITION. The statements for the provers, from the numbered rules of spec/. Nothing is proved here. An instruction's
statement says, through `State.runsAs`, that exec completes in the state its rule gives, and that a step of a live core over
the rule's bytes does the same and charges the rule's cycles. Every such result is an equation between whole states, so it is
the instruction's frame as well; where a byte is stored, the memory is given by what every address reads as. -/

open Sys2Proof Sys2Proof.Machine

/-! ### Encoding (30_encoding.md) -/

/-- The example encodings of the assembler table of 30_encoding.md section 5, and the three opcode bytes the source document
gives. The other opcode bytes are the spec's own decision D2. -/
def Obligations.ExampleWordsDecode : Prop :=
  decode [0x48] = .ok (.pha, []) ∧
  decode [0xA9, 0x69] = .ok (.ldaImm 0x69, []) ∧
  decode [0xA5, 0x10] = .ok (.ldaZp 0x10, []) ∧
  decode [0xF6, 0x10] = .ok (.incZpX 0x10, []) ∧
  decode [0x8D, 0x01, 0x02] = .ok (.staAbs 0x0201, []) ∧
  decode [0xFE, 0x00, 0x03] = .ok (.incAbsX 0x0300, []) ∧
  decode [0x6C, 0x00, 0x06] = .ok (.jmpInd 0x0600, []) ∧
  decode [0xF0, 0x03] = .ok (.beq 3, []) ∧
  decode [0x29, 0x02] = .ok (.andImm 0x02, [])

/-- Decoding what the encoder writes gives the instruction back, and leaves the bytes after it. -/
def Obligations.DecodeUndoesEncode : Prop :=
  ∀ (i : Instr) (rest : List Byte), i.wellFormed = true → decode (encode i ++ rest) = .ok (i, rest)

/-- Whatever the decoder accepts is a well-formed instruction, and the encoder writes exactly the bytes it took: no byte of an
instruction is ignored and no instruction has two encodings. -/
def Obligations.EncodeUndoesDecode : Prop :=
  ∀ (bytes : List Byte) (i : Instr) (rest : List Byte), decode bytes = .ok (i, rest) →
    i.wellFormed = true ∧ bytes = encode i ++ rest

/-- The opcode byte fixes the mnemonic and the mode, and the mode the length (30_encoding.md section 1). -/
def Obligations.OpcodeFixesModeAndLength : Prop :=
  (∀ i j : Instr, i.opcode = j.opcode → i.mnemonic = j.mnemonic ∧ i.mode = j.mode) ∧
  (∀ (op : Byte) (bytes : List Byte) (i : Instr) (rest : List Byte), decode (op :: bytes) = .ok (i, rest) →
    i.opcode = op ∧ (op :: bytes).length = i.mode.length + rest.length)

/-- The 25 bytes of 30_encoding.md R60, and no other, are opcodes; 231 bytes are unknown. All but 0xA9, 0x8D and 0x29 are the
spec's own decision D2. -/
def Obligations.UnassignedBytesAreUnknown : Prop :=
  let assigned : List Byte :=
    [0x00, 0x08, 0x20, 0x24, 0x28, 0x29, 0x40, 0x48, 0x4C, 0x60, 0x68, 0x6C, 0x85, 0x8A, 0x8D, 0x9A, 0xA5, 0xA9, 0xAD, 0xB5,
      0xBA, 0xEA, 0xF0, 0xF6, 0xFE]
  (∀ op b1 b2 : Byte,
    (op ∈ assigned → ∃ i rest, decode [op, b1, b2] = .ok (i, rest) ∧ i.opcode = op) ∧
    (op ∉ assigned → ∀ rest, decode (op :: rest) = .error (.unknownOpcode op))) ∧
  ((List.range 256).filter fun k => !assigned.contains (BitVec.ofNat 8 k)).length = 231

/-! ### The engine (40_engine.md) -/

/-- A step runs the instruction its bytes decode to: exec with PC past the opcode, then the charge. -/
def Obligations.StepRunsDecodedInstruction : Prop :=
  ∀ (s t : State) (i : Instr) (rest : List Byte), s.live = true → s.budget ≠ 0 → decode s.fetchBytes = .ok (i, rest) →
    cost i s ≤ s.budget → exec i { s with pc := s.pc + 1 } = .next t →
    step s = .next { t with budget := s.budget - cost i s }

/-- 40_engine.md R68: the budget is tested between instructions, before any fetch; execute(0) changes the control state alone;
a call whose budget is used up exactly by the instructions it runs halts with budget 0 after them. -/
def Obligations.EmptyBudgetHaltsCleanly : Prop :=
  (∀ s : State, s.live = true → s.budget = 0 →
    step s = .next { s with runState := .halted, haltReason := .budgetExhausted }) ∧
  (∀ s : State, s.ready = true →
    let t := { s with budget := 0, runState := .halted, haltReason := .budgetExhausted, faultReason := .none }
    hostExecute s 0 = .next (t, t.result)) ∧
  (∀ (s u : State) (b k : Nat), s.ready = true → core.run k (s.beginCall b) = .next u → u.runState = .running →
    u.budget = 0 →
    let t := { u with runState := .halted, haltReason := .budgetExhausted }
    hostExecute s b = .next (t, t.result))

/-- 60_exceptions.md R118: an unknown opcode ends the call cleanly, charges one cycle, and leaves every register, flag and
memory byte, PC included. -/
def Obligations.UnknownOpcodeHaltsCleanly : Prop :=
  ∀ (s : State) (e : DecodeError), s.live = true → s.budget ≠ 0 → decode s.fetchBytes = .error e →
    step s = .next { s with budget := s.budget - 1, runState := .halted, haltReason := .unknownOpcode }

/-- A call that starts at an unknown opcode halts after one cycle, with UNKNOWN_OPCODE even when that uses the last cycle (the
spec's decision D27), and so does every further call. -/
def Obligations.UnknownOpcodeHaltsEveryCall : Prop :=
  ∀ (s : State) (b : Nat) (e : DecodeError), s.ready = true → b ≠ 0 → decode s.fetchBytes = .error e →
    let t := { s with budget := b - 1, runState := .halted, haltReason := .unknownOpcode, faultReason := .none }
    hostExecute s b = .next (t, t.result) ∧ t.ready = true ∧ t.fetchBytes = s.fetchBytes

/-- An instruction that costs more than the budget does not start: nothing changes but the control state (the spec's decision
D6). That the step answers a next state, FAULTED, is the model's choice (log entry 4). -/
def Obligations.ShortBudgetDoesNotStart : Prop :=
  ∀ (s : State) (i : Instr) (rest : List Byte), s.live = true → s.budget ≠ 0 → decode s.fetchBytes = .ok (i, rest) →
    s.budget < cost i s → step s = .next { s with runState := .faulted, faultReason := .cycleUnderflow }

/-- 40_engine.md R82: the cycle count of every instruction, and of BEQ from the state before it. -/
def Obligations.CycleCostsAreTheTables : Prop :=
  (∀ (s : State) (b : Byte) (w : Addr),
    cost (.ldaImm b) s = 2 ∧ cost (.ldaZp b) s = 3 ∧ cost (.ldaZpX b) s = 4 ∧ cost (.ldaAbs w) s = 4 ∧
    cost (.staZp b) s = 3 ∧ cost (.staAbs w) s = 4 ∧ cost (.jsr w) s = 6 ∧ cost .rts s = 6 ∧
    cost (.jmpAbs w) s = 3 ∧ cost (.jmpInd w) s = 5 ∧ cost .pha s = 3 ∧ cost .php s = 3 ∧ cost .pla s = 4 ∧
    cost .plp s = 4 ∧ cost .tsx s = 2 ∧ cost .txs s = 2 ∧ cost .txa s = 2 ∧ cost (.andImm b) s = 2 ∧
    cost (.bitZp b) s = 3 ∧ cost (.incZpX b) s = 6 ∧ cost (.incAbsX w) s = 7 ∧ cost .nop s = 2 ∧ cost .brk s = 7 ∧
    cost .rti s = 6) ∧
  (∀ (s : State) (off : Int) (rest : List Byte), decode s.fetchBytes = .ok (.beq off, rest) →
    let next := s.pc + 2
    let off8 := s.readByte (s.pc + 1)
    off = off8.toInt ∧
    cost (.beq off) s =
      if s.flags.z = true ∧ hiByte next ≠ hiByte (next + off8.signExtend 16) then 3 else 2)

/-- Every execute call ends within b + 1 steps, halted or faulted, and running the loop longer changes nothing
(40_engine.md section 2; an inference the spec marks as its own). -/
def Obligations.EveryCallEnds : Prop :=
  ∀ (s : State) (b : Nat), s.ready = true →
    ∃ t, hostExecute s b = .next (t, t.result) ∧ (t.runState = .halted ∨ t.runState = .faulted) ∧ t.budget ≤ b ∧
      ∀ n, b + 1 ≤ n → callLoop n (s.beginCall b) = .next t

/-- In a step the budget never increases, and a step that leaves the core in the call lowers it (10_state.md section 6). -/
def Obligations.BudgetNeverIncreases : Prop :=
  ∀ s t : State, step s = .next t → t.budget ≤ s.budget ∧ (t.runState = .running → t.budget < s.budget)

/-! ### The host control port, reset (40_engine.md section 1, 70_reset_and_hazards.md) -/

/-- A FAULTED core stays FAULTED: execute returns the same fault and changes nothing, reset_done tested after it; only reset
leaves it (the spec's decision D28). That a step of a FAULTED core is a fault, and of an IDLE or HALTED one does nothing, is
the model's choice (log entry 3). -/
def Obligations.FaultedIsSticky : Prop :=
  (∀ (s : State) (b : Nat), s.runState = .faulted →
    hostExecute s b = .next (s, s.result) ∧ step s = .fault (.fatal s.faultReason) ∧
    ∃ t, hostReset s = .next t ∧ t.runState = .idle ∧ t.faultReason = .none) ∧
  (∀ s : State, s.runState = .idle ∨ s.runState = .halted → step s = .next s)

/-- execute before the first reset ends FAULTED with NOT_RESET and changes nothing else (the spec's decision D18). -/
def Obligations.ExecuteBeforeResetFaults : Prop :=
  ∀ (s : State) (b : Nat), s.runState = .idle ∨ s.runState = .halted → s.resetDone = false →
    ∃ r, hostExecute s b = .next ({ s with runState := .faulted, faultReason := .notReset }, r) ∧
      r.codes = (3, 0, 2, s.budget)

/-- While an execute call runs, no host action writes anything: registers and flags by 10_state.md R15, memory by R16 and
20_memory.md R42 (the spec's decisions D17 and D29), reset by 70_reset_and_hazards.md R134. That every such action, execute
among them, is refused by name is the model's inference (log entry 6, DEDUCED). -/
def Obligations.HostIsLockedOutWhileRunning : Prop :=
  ∀ (s : State), s.runState = .running →
    (∀ r v t, hostWriteReg s r v ≠ .next t) ∧ (∀ v t, hostWritePc s v ≠ .next t) ∧
    (∀ f v t, hostWriteFlag s f v ≠ .next t) ∧ (∀ a v t, hostWriteByte s a v ≠ .next t) ∧
    (∀ a v t, hostWriteWord s a v ≠ .next t) ∧ (∀ t, hostReset s ≠ .next t) ∧ (∀ b r, hostExecute s b ≠ .next r)

/-- While the core is not RUNNING the host writes one element and reads it back, and no other element changes (the spec's
decision D17); an address of 65536 or more is a fault (the model's choice, log entry 7). -/
def Obligations.HostWritesOneElement : Prop :=
  ∀ s : State, s.runState ≠ .running → s.resetDone = true →
    (∀ r v, ∃ t, hostWriteReg s r v = .next t ∧ hostReadReg t r = .next v ∧ t.setReg r (s.getReg r) = s) ∧
    (∀ v, ∃ t, hostWritePc s v = .next t ∧ hostReadPc t = .next v ∧ { t with pc := s.pc } = s) ∧
    (∀ f v, ∃ t, hostWriteFlag s f v = .next t ∧ hostReadFlag t f = .next v ∧
      { t with flags := t.flags.set f (s.flags.get f) } = s) ∧
    (∀ (a : Nat) (v : Byte), a < 65536 →
      ∃ t, hostWriteByte s a v = .next t ∧ { t with mem := s.mem } = s ∧
        ∀ b, b < 65536 → hostReadByte t b = if b = a then .next v else hostReadByte s b) ∧
    (∀ (a : Nat) (v : Byte), 65536 ≤ a →
      hostWriteByte s a v = .fault .addressOutOfRange ∧ hostReadByte s a = .fault .addressOutOfRange)

/-- Before the first reset every read of a register, flag or memory byte is a fault (the spec's decision D18), and the control
state is the one construction leaves. The name of the fault is the model's (log entry 5). -/
def Obligations.ReadsBeforeResetFault : Prop :=
  (∀ p : Params, hostReadControl (State.constructed p) = .next
    { runState := .idle, resetDone := false, haltReason := .none, faultReason := .none, budget := 0 }) ∧
  (∀ s : State, s.runState ≠ .running → s.resetDone = false →
    (∀ r, hostReadReg s r = .fault .noValueBeforeReset) ∧ hostReadPc s = .fault .noValueBeforeReset ∧
    (∀ f, hostReadFlag s f = .fault .noValueBeforeReset) ∧
    (∀ a, a < 65536 → hostReadByte s a = .fault .noValueBeforeReset))

/-- What reset leaves in every element, from every state but RUNNING (the numbers of the vector and of SP are the spec's
decisions D3 and D4; the control state is its decision D30). Calling it twice is the same as once. -/
def Obligations.ResetGivesEveryElement : Prop :=
  (∀ s : State, s.runState ≠ .running → ∃ t, hostReset s = .next t ∧
    t.pc = s.params.resetVector ∧ t.sp = 0xFF ∧ t.a = 0 ∧ t.x = 0 ∧ t.y = 0 ∧ t.flags.pack = 0x00 ∧
    (∀ f, t.flags.get f = false) ∧ t.budget = 0 ∧ t.runState = .idle ∧ t.resetDone = true ∧ t.haltReason = .none ∧
    t.faultReason = .none ∧ (∀ a, t.readByte a = 0x00) ∧ t.params = s.params ∧ hostReset t = .next t) ∧
  hostReset (State.constructed Params.default) = .next State.reset ∧ State.reset.pc = 0xFFFC

/-- 20_memory.md R38: reset zero-fills all 65536 bytes of the bound memory. -/
def Obligations.ResetZeroFillsMemory : Prop :=
  ∀ s t : State, hostReset s = .next t → ∀ a : Addr, t.readByte a = 0x00

/-! ### Memory, stack page, flags, addresses -/

/-- 20_memory.md R35: a byte write replaces that byte and changes nothing else. -/
def Obligations.ByteWriteChangesOneByte : Prop :=
  ∀ (s : State) (a : Addr) (v : Byte),
    (∀ b : Addr, (s.writeByte a v).readByte b = if b = a then v else s.readByte b) ∧
    { s.writeByte a v with mem := s.mem } = s

/-- A word is stored low byte first, its second address wrapping from 0xFFFF to 0x0000, and reads back (20_memory.md section 1;
the second address of a read is the spec's decision D11). -/
def Obligations.WordsAreLittleEndian : Prop :=
  ∀ (s : State) (a v : Addr),
    (∀ b : Addr, (s.writeWord a v).readByte b =
      if b = a then loByte v else if b = a + 1 then hiByte v else s.readByte b) ∧
    (s.writeWord a v).readWord a = v ∧ { s.writeWord a v with mem := s.mem } = s ∧
    (s.readWord a).toNat = (s.readByte (a + 1)).toNat * 256 + (s.readByte a).toNat

/-- 20_memory.md R45: the stack address is 0x0100 | SP and lies in 0x0100 to 0x01FF. -/
def Obligations.StackAddressIsInPageOne : Prop :=
  ∀ sp : Byte, stackAddr sp = 0x0100#16 ||| sp.setWidth 16 ∧ 0x0100 ≤ (stackAddr sp).toNat ∧
    (stackAddr sp).toNat ≤ 0x01FF ∧ (stackAddr sp).toNat = 0x0100 + sp.toNat

/-- 20_memory.md R46: a push writes at the current stack address, then decrements SP modulo 256. -/
def Obligations.PushWritesThenDecrements : Prop :=
  ∀ (s : State) (v : Byte),
    (∀ b : Addr, (s.push8 v).readByte b = if b = stackAddr s.sp then v else s.readByte b) ∧
    (s.push8 v).sp.toNat = (s.sp.toNat + 255) % 256 ∧
    { s.push8 v with sp := s.sp, mem := s.mem } = s

/-- 20_memory.md R47: a pop increments SP modulo 256, then reads at the new stack address, and changes nothing else. -/
def Obligations.PopIncrementsThenReads : Prop :=
  ∀ s : State,
    (s.pop8).2.sp.toNat = (s.sp.toNat + 1) % 256 ∧ (s.pop8).1 = s.readByte (0x0100#16 ||| ((s.pop8).2.sp).setWidth 16) ∧
    { (s.pop8).2 with sp := s.sp } = s

/-- 20_memory.md R48 and R49: a word is pushed high byte first and popped low byte first, and a pop directly after a push
returns the word and restores SP. -/
def Obligations.PushedWordPopsBack : Prop :=
  ∀ (s : State) (w : Addr),
    (∀ b : Addr, (s.push16 w).readByte b =
      if b = stackAddr s.sp then hiByte w else if b = stackAddr (s.sp - 1) then loByte w else s.readByte b) ∧
    (s.push16 w).sp = s.sp - 2 ∧ { s.push16 w with sp := s.sp, mem := s.mem } = s ∧
    (s.pop16).1 = joinBytes (s.readByte (stackAddr (s.sp + 2))) (s.readByte (stackAddr (s.sp + 1))) ∧
    (s.pop16).2 = { s with sp := s.sp + 2 } ∧
    ((s.push16 w).pop16).1 = w ∧ ((s.push16 w).pop16).2 = { s.push16 w with sp := s.sp }

/-- 10_state.md R23 and R24: the bit of every flag in the packed byte, both ways. -/
def Obligations.FlagsHaveFixedBits : Prop :=
  (∀ f : Flags, f.pack.getLsbD 0 = f.c ∧ f.pack.getLsbD 1 = f.z ∧ f.pack.getLsbD 2 = f.i ∧ f.pack.getLsbD 3 = f.d ∧
    f.pack.getLsbD 4 = f.b ∧ f.pack.getLsbD 5 = f.u ∧ f.pack.getLsbD 6 = f.v ∧ f.pack.getLsbD 7 = f.n) ∧
  (∀ b : Byte, (unpackFlags b).c = b.getLsbD 0 ∧ (unpackFlags b).z = b.getLsbD 1 ∧ (unpackFlags b).i = b.getLsbD 2 ∧
    (unpackFlags b).d = b.getLsbD 3 ∧ (unpackFlags b).b = b.getLsbD 4 ∧ (unpackFlags b).u = b.getLsbD 5 ∧
    (unpackFlags b).v = b.getLsbD 6 ∧ (unpackFlags b).n = b.getLsbD 7)

/-- 10_state.md R25: pack and unpack lose nothing, both ways. -/
def Obligations.PackAndUnpackAreLossless : Prop :=
  (∀ f : Flags, unpackFlags f.pack = f) ∧ ∀ b : Byte, (unpackFlags b).pack = b

/-- The shared update writes Z and N alone, N from the bit the parameter names (the parameter is the spec's decision D7). -/
def Obligations.SharedUpdateWritesZeroAndNegative : Prop :=
  ∀ (s : State) (v : Byte),
    (s.setZN v).flags.z = decide (v.toNat = 0) ∧
    (s.params.negativeBit = .bit7 → (s.setZN v).flags.n = decide (128 ≤ v.toNat)) ∧
    (s.params.negativeBit = .bit6 → (s.setZN v).flags.n = decide (64 ≤ v.toNat % 128)) ∧
    { s.setZN v with flags := { (s.setZN v).flags with z := s.flags.z, n := s.flags.n } } = s

/-- 40_engine.md R76 and R77: a zero-page address is the operand byte, and an indexed one wraps within the byte. -/
def Obligations.ZeroPageAddressesStayInPageZero : Prop :=
  ∀ (s : State) (zp8 : Byte), (eaZeroPage zp8).toNat = zp8.toNat ∧
    (eaZeroPageX s zp8).toNat = (zp8.toNat + s.x.toNat) % 256

/-- The sixteen-bit modes wrap modulo 65536: Absolute,X (the spec's decision D10), the Indirect word (D11), the Relative target
(D12). -/
def Obligations.WideAddressesWrap : Prop :=
  ∀ (s : State) (w : Addr) (off8 : Byte),
    (eaAbsoluteX s w).toNat = (w.toNat + s.x.toNat) % 65536 ∧
    eaIndirect s w = joinBytes (s.readByte (w + 1)) (s.readByte w) ∧
    ((branchTarget w off8.toInt).toNat : Int) = ((w.toNat : Int) + off8.toInt) % 65536 ∧
    branchTarget w off8.toInt = w + off8.signExtend 16

/-! ### Instructions -/

/-- 41_load_store.md R87. -/
def Obligations.LoadImmediate : Prop :=
  ∀ (s : State) (imm8 : Byte), s.runsAs [0xA9, imm8] (.ldaImm imm8) 2
    { s with
      pc := s.pc + 2, a := imm8
      flags := { s.flags with z := decide (imm8 = 0), n := imm8.getLsbD s.params.negativeBit.index } }

/-- 41_load_store.md, LDA from memory in its three modes. The opcode bytes are the spec's decision D2. -/
def Obligations.LoadFromMemory : Prop :=
  ∀ (s : State) (zp8 lo8 hi8 : Byte),
    (let m := s.readByte (eaZeroPage zp8)
     s.runsAs [0xA5, zp8] (.ldaZp zp8) 3
      { s with
        pc := s.pc + 2, a := m
        flags := { s.flags with z := decide (m = 0), n := m.getLsbD s.params.negativeBit.index } }) ∧
    (let m := s.readByte (eaZeroPageX s zp8)
     s.runsAs [0xB5, zp8] (.ldaZpX zp8) 4
      { s with
        pc := s.pc + 2, a := m
        flags := { s.flags with z := decide (m = 0), n := m.getLsbD s.params.negativeBit.index } }) ∧
    (let m := s.readByte (joinBytes hi8 lo8)
     s.runsAs [0xAD, lo8, hi8] (.ldaAbs (joinBytes hi8 lo8)) 4
      { s with
        pc := s.pc + 3, a := m
        flags := { s.flags with z := decide (m = 0), n := m.getLsbD s.params.negativeBit.index } })

/-- 41_load_store.md, STA to the zero page. The opcode byte is the spec's decision D2. -/
def Obligations.StoreZeroPage : Prop :=
  ∀ (s : State) (zp8 : Byte), ∃ t, s.runsAs [0x85, zp8] (.staZp zp8) 3 t ∧
    t = { s with pc := s.pc + 2, mem := t.mem } ∧
    ∀ b : Addr, t.readByte b = if b = eaZeroPage zp8 then s.a else s.readByte b

/-- 41_load_store.md R92. -/
def Obligations.StoreAbsolute : Prop :=
  ∀ (s : State) (lo8 hi8 : Byte), ∃ t, s.runsAs [0x8D, lo8, hi8] (.staAbs (joinBytes hi8 lo8)) 4 t ∧
    t = { s with pc := s.pc + 3, mem := t.mem } ∧
    ∀ b : Addr, t.readByte b = if b = eaAbsolute (joinBytes hi8 lo8) then s.a else s.readByte b

/-- 42_jump_subroutine.md, JSR and RTS: JSR pushes the address of its last byte, high byte first; RTS resumes at the popped word
plus one. The opcode bytes are the spec's decision D2, the fetch of both target bytes before the pushes its decision D23. -/
def Obligations.SubroutineCallAndReturn : Prop :=
  (∀ (s : State) (lo8 hi8 : Byte), ∃ t, s.runsAs [0x20, lo8, hi8] (.jsr (joinBytes hi8 lo8)) 6 t ∧
    t = { s with pc := joinBytes hi8 lo8, sp := s.sp - 2, mem := t.mem } ∧
    ∀ b : Addr, t.readByte b =
      if b = stackAddr s.sp then hiByte (s.pc + 2)
      else if b = stackAddr (s.sp - 1) then loByte (s.pc + 2) else s.readByte b) ∧
  (∀ s : State, s.runsAs [0x60] .rts 6
    { s with
      pc := joinBytes (s.readByte (stackAddr (s.sp + 2))) (s.readByte (stackAddr (s.sp + 1))) + 1
      sp := s.sp + 2 })

/-- 42_jump_subroutine.md, both forms of JMP. The opcode bytes are the spec's decision D2, the second byte of the pointer its
decision D11. -/
def Obligations.Jumps : Prop :=
  ∀ (s : State) (lo8 hi8 : Byte),
    s.runsAs [0x4C, lo8, hi8] (.jmpAbs (joinBytes hi8 lo8)) 3 { s with pc := joinBytes hi8 lo8 } ∧
    s.runsAs [0x6C, lo8, hi8] (.jmpInd (joinBytes hi8 lo8)) 5
      { s with pc := joinBytes (s.readByte (joinBytes hi8 lo8 + 1)) (s.readByte (joinBytes hi8 lo8)) }

/-- 43_stack.md, PHA and PHP. The opcode bytes are the spec's decision D2. -/
def Obligations.Pushes : Prop :=
  ∀ s : State,
    (∃ t, s.runsAs [0x48] .pha 3 t ∧ t = { s with pc := s.pc + 1, sp := s.sp - 1, mem := t.mem } ∧
      ∀ b : Addr, t.readByte b = if b = stackAddr s.sp then s.a else s.readByte b) ∧
    (∃ t, s.runsAs [0x08] .php 3 t ∧ t = { s with pc := s.pc + 1, sp := s.sp - 1, mem := t.mem } ∧
      ∀ b : Addr, t.readByte b = if b = stackAddr s.sp then s.flags.pack else s.readByte b)

/-- 43_stack.md, PLA and PLP. The opcode bytes are the spec's decision D2. -/
def Obligations.Pulls : Prop :=
  ∀ s : State,
    let m := s.readByte (stackAddr (s.sp + 1))
    s.runsAs [0x68] .pla 4
      { s with
        pc := s.pc + 1, sp := s.sp + 1, a := m
        flags := { s.flags with z := decide (m = 0), n := m.getLsbD s.params.negativeBit.index } } ∧
    s.runsAs [0x28] .plp 4 { s with pc := s.pc + 1, sp := s.sp + 1, flags := unpackFlags m }

/-- 44_transfer.md: TSX and TXA write Z and N, TXS writes no flag (the spec's decision D9). The opcode bytes are its decision
D2. -/
def Obligations.Transfers : Prop :=
  ∀ s : State,
    s.runsAs [0xBA] .tsx 2
      { s with
        pc := s.pc + 1, x := s.sp
        flags := { s.flags with z := decide (s.sp = 0), n := s.sp.getLsbD s.params.negativeBit.index } } ∧
    s.runsAs [0x9A] .txs 2 { s with pc := s.pc + 1, sp := s.x } ∧
    s.runsAs [0x8A] .txa 2
      { s with
        pc := s.pc + 1, a := s.x
        flags := { s.flags with z := decide (s.x = 0), n := s.x.getLsbD s.params.negativeBit.index } }

/-- 45_logic_arith.md R107. -/
def Obligations.AndImmediate : Prop :=
  ∀ (s : State) (imm8 : Byte),
    let r := s.a &&& imm8
    s.runsAs [0x29, imm8] (.andImm imm8) 2
      { s with
        pc := s.pc + 2, a := r
        flags := { s.flags with z := decide (r = 0), n := r.getLsbD s.params.negativeBit.index } }

/-- 45_logic_arith.md, BIT: Z from A AND m, N and V from bits 7 and 6 of m whatever NEGATIVE_BIT is. The opcode byte is the
spec's decision D2. -/
def Obligations.BitTest : Prop :=
  ∀ (s : State) (zp8 : Byte),
    let m := s.readByte (eaZeroPage zp8)
    s.runsAs [0x24, zp8] (.bitZp zp8) 3
      { s with
        pc := s.pc + 2
        flags := { s.flags with z := decide (s.a &&& m = 0), n := m.getLsbD 7, v := m.getLsbD 6 } }

/-- 45_logic_arith.md, INC in its two modes. The flags under INC_UPDATES_ZN are the spec's decision D8, the Absolute,X address
its decision D10, the opcode bytes its decision D2. -/
def Obligations.Increments : Prop :=
  ∀ (s : State) (zp8 lo8 hi8 : Byte),
    (let ea := eaZeroPageX s zp8
     let r := s.readByte ea + 1
     ∃ t, s.runsAs [0xF6, zp8] (.incZpX zp8) 6 t ∧
      t = { s with
        pc := s.pc + 2, mem := t.mem
        flags := if s.params.incUpdatesZN = true then
            { s.flags with z := decide (r = 0), n := r.getLsbD s.params.negativeBit.index } else s.flags } ∧
      ∀ b : Addr, t.readByte b = if b = ea then r else s.readByte b) ∧
    (let ea := eaAbsoluteX s (joinBytes hi8 lo8)
     let r := s.readByte ea + 1
     ∃ t, s.runsAs [0xFE, lo8, hi8] (.incAbsX (joinBytes hi8 lo8)) 7 t ∧
      t = { s with
        pc := s.pc + 3, mem := t.mem
        flags := if s.params.incUpdatesZN = true then
            { s.flags with z := decide (r = 0), n := r.getLsbD s.params.negativeBit.index } else s.flags } ∧
      ∀ b : Addr, t.readByte b = if b = ea then r else s.readByte b)

/-- 46_branch_nop.md: BEQ is taken when Z is set, and costs one cycle more when the target is in another page than the next
instruction (the base and the page test are the spec's decision D12, the opcode bytes its decision D2); NOP only advances PC.
Every well-formed displacement is some byte read as signed. -/
def Obligations.BranchIfZeroAndNoOperation : Prop :=
  (∀ (s : State) (off8 : Byte),
    let next := s.pc + 2
    let target := next + off8.signExtend 16
    s.runsAs [0xF0, off8] (.beq off8.toInt)
      (if s.flags.z = true ∧ hiByte target ≠ hiByte next then 3 else 2)
      { s with pc := if s.flags.z = true then target else next }) ∧
  (∀ off : Int, (Instr.beq off).wellFormed = true → ∃ off8 : Byte, off = off8.toInt) ∧
  (∀ s : State, s.runsAs [0xEA] .nop 2 { s with pc := s.pc + 1 })

/-- 47_interrupt.md, BRK, the trap entry: its own address and the flags as they were go on the stack, PC takes the word that
stands at IRQ_VECTOR after the pushes, then B and I are set. The opcode byte is the spec's decision D2, the vector a parameter
(D5), the order of the accesses its decision D23. -/
def Obligations.SoftwareInterrupt : Prop :=
  ∀ s : State, ∃ t, s.runsAs [0x00] .brk 7 t ∧
    t = { s with
      pc := joinBytes (t.readByte (s.params.irqVector + 1)) (t.readByte s.params.irqVector)
      sp := s.sp - 3, flags := { s.flags with b := true, i := true }, mem := t.mem } ∧
    ∀ b : Addr, t.readByte b =
      if b = stackAddr s.sp then hiByte s.pc
      else if b = stackAddr (s.sp - 1) then loByte s.pc
      else if b = stackAddr (s.sp - 2) then s.flags.pack else s.readByte b

/-- 47_interrupt.md, RTI, the trap return: all eight flags, then the saved word plus one. The opcode byte is the spec's decision
D2. -/
def Obligations.InterruptReturn : Prop :=
  ∀ s : State, s.runsAs [0x40] .rti 6
    { s with
      flags := unpackFlags (s.readByte (stackAddr (s.sp + 1)))
      pc := joinBytes (s.readByte (stackAddr (s.sp + 3))) (s.readByte (stackAddr (s.sp + 2))) + 1
      sp := s.sp + 3 }

/-! ### Inverse laws (inferences the spec marks as its own) -/

/-- A JSR whose target then holds an RTS returns to the byte after the JSR, with SP and every register and flag restored, in 12
cycles (42_jump_subroutine.md, the subroutine inverse law). -/
def Obligations.ReturnUndoesCall : Prop :=
  ∀ (s t : State) (lo8 hi8 : Byte), s.live = true → s.holds s.pc [0x20, lo8, hi8] = true → 12 ≤ s.budget →
    step s = .next t → t.readByte (joinBytes hi8 lo8) = 0x60 →
    step t = .next { s with pc := s.pc + 3, budget := s.budget - 12, mem := t.mem }

/-- PHA then PLA restores A and SP and sets Z and N from A; PHP then PLP restores every flag and SP; the pushed byte stays
(43_stack.md, the stack inverse law). -/
def Obligations.PullUndoesPush : Prop :=
  ∀ s t : State, s.live = true → 7 ≤ s.budget → step s = .next t →
    (s.readByte s.pc = 0x48 → t.readByte (s.pc + 1) = 0x68 →
      t.readByte (stackAddr s.sp) = s.a ∧
      step t = .next { s with
        pc := s.pc + 2, budget := s.budget - 7, mem := t.mem
        flags := { s.flags with z := decide (s.a = 0), n := s.a.getLsbD s.params.negativeBit.index } }) ∧
    (s.readByte s.pc = 0x08 → t.readByte (s.pc + 1) = 0x28 →
      t.readByte (stackAddr s.sp) = s.flags.pack ∧
      step t = .next { s with pc := s.pc + 2, budget := s.budget - 7, mem := t.mem })

/-- A BRK whose vector leads at once to an RTI resumes at the byte after the BRK with SP and every flag restored, B and I
included, in 13 cycles (47_interrupt.md). -/
def Obligations.InterruptReturnUndoesInterrupt : Prop :=
  ∀ s t : State, s.live = true → s.readByte s.pc = 0x00 → 13 ≤ s.budget → step s = .next t → t.readByte t.pc = 0x40 →
    step t = .next { s with pc := s.pc + 1, budget := s.budget - 13, mem := t.mem }

/-! ### Invariants and whole-machine rules -/

/-- State.reset meets the invariant, and so does the state at construction. -/
def Obligations.ResetMeetsTheInvariant : Prop :=
  State.reset.inv = true ∧ ∀ p : Params, (State.constructed p).inv = true

/-- Every step keeps the memory in its canonical form, and the parameters and reset_done as they are. -/
def Obligations.StepKeepsMemoryCanonical : Prop :=
  ∀ s t : State, Memory.wf s.mem = true → step s = .next t →
    Memory.wf t.mem = true ∧ t.params = s.params ∧ t.resetDone = s.resetDone

/-- Every step keeps the control state consistent: no run reaches a halt without its reason or a fault with a halt reason, and
ADDRESS_OUT_OF_RANGE never stands. -/
def Obligations.StepKeepsControlConsistent : Prop :=
  ∀ s t : State, s.controlOk = true → step s = .next t → t.controlOk = true

/-- Every host action that answers a state keeps the invariant. -/
def Obligations.HostActionsKeepTheInvariant : Prop :=
  ∀ s t : State, s.inv = true →
    (hostReset s = .next t → t.inv = true) ∧
    (∀ b r, hostExecute s b = .next (t, r) → t.inv = true ∧ r = t.result) ∧
    (∀ r v, hostWriteReg s r v = .next t → t.inv = true) ∧
    (∀ v, hostWritePc s v = .next t → t.inv = true) ∧
    (∀ f v, hostWriteFlag s f v = .next t → t.inv = true) ∧
    (∀ a v, hostWriteByte s a v = .next t → t.inv = true) ∧
    (∀ a v, hostWriteWord s a v = .next t → t.inv = true)

/-- Two canonical memories that read the same at every address are the same list. -/
def Obligations.CanonicalMemoriesAreEqual : Prop :=
  ∀ m n : Memory, Memory.wf m = true → Memory.wf n = true →
    (∀ a : Addr, Memory.read m a.toNat = Memory.read n a.toNat) → m = n

/-- Which instructions write each register, over all instructions: A, X and SP only these, Y none (10_state.md R19 and R21; the
table of R19 is an inference the spec marks as its own). None writes the control state, which reset and execute write
(10_state.md R28). None writes the budget, because the engine and not exec charges the cost (40_engine.md R67 and R83; the
model's choice, log entry 9), nor the parameters, which stand in the state by the model's choice (log entry 1). -/
def Obligations.RegisterWriters : Prop :=
  ∀ (i : Instr) (s t : State), exec i s = .next t →
    (t.a ≠ s.a → i.mnemonic ∈ [.lda, .pla, .txa, .and]) ∧
    (t.x ≠ s.x → i.mnemonic = .tsx) ∧
    t.y = s.y ∧
    (t.sp ≠ s.sp → i.mnemonic ∈ [.txs, .jsr, .rts, .pha, .php, .pla, .plp, .brk, .rti]) ∧
    t.budget = s.budget ∧ t.runState = s.runState ∧ t.resetDone = s.resetDone ∧ t.haltReason = s.haltReason ∧
    t.faultReason = s.faultReason ∧ t.params = s.params

/-- Which instructions write each flag, over all instructions (10_state.md section 5; an inference the spec marks as its own). -/
def Obligations.FlagWriters : Prop :=
  ∀ (i : Instr) (s t : State), exec i s = .next t →
    (t.flags.c ≠ s.flags.c ∨ t.flags.d ≠ s.flags.d ∨ t.flags.u ≠ s.flags.u → i.mnemonic ∈ [.plp, .rti]) ∧
    (t.flags.i ≠ s.flags.i ∨ t.flags.b ≠ s.flags.b → i.mnemonic ∈ [.brk, .plp, .rti]) ∧
    (t.flags.v ≠ s.flags.v → i.mnemonic ∈ [.bit, .plp, .rti]) ∧
    (t.flags.z ≠ s.flags.z ∨ t.flags.n ≠ s.flags.n →
      i.mnemonic ∈ [.lda, .pla, .tsx, .txa, .and, .bit, .plp, .rti] ∨
      (i.mnemonic = .inc ∧ s.params.incUpdatesZN = true))

/-- Which instructions write memory, over all instructions, and that the stack instructions write only 0x0100 to 0x01FF, at
most three bytes below SP (10_state.md section 4, 20_memory.md section 2). -/
def Obligations.MemoryWriters : Prop :=
  ∀ (i : Instr) (s t : State) (b : Addr), exec i s = .next t → t.readByte b ≠ s.readByte b →
    i.mnemonic ∈ [.sta, .inc, .jsr, .pha, .php, .brk] ∧
    (i.mnemonic ∈ [.jsr, .pha, .php, .brk] →
      0x0100 ≤ b.toNat ∧ b.toNat ≤ 0x01FF ∧ (b = stackAddr s.sp ∨ b = stackAddr (s.sp - 1) ∨ b = stackAddr (s.sp - 2)))

/-- No instruction reads Y: with another value there, everything else comes out the same (10_state.md section 2). -/
def Obligations.NoInstructionReadsY : Prop :=
  ∀ (s t : State) (v : Byte), step s = .next t → step { s with y := v } = .next { t with y := v }

/-- A flag is read only by the pushes of PHP and BRK, and Z by BEQ as well: with another value in it, every other instruction
leaves the same state but for that flag. So I masks nothing and D changes no result (10_state.md section 5,
60_exceptions.md section 2, the spec's decisions D14 and D16). -/
def Obligations.FlagReaders : Prop :=
  ∀ (i : Instr) (s : State) (f : FlagName) (v : Bool), i.mnemonic ≠ .php → i.mnemonic ≠ .brk →
    (f = .z → i.mnemonic ≠ .beq) →
    ∃ t u, exec i s = .next t ∧ exec i { s with flags := s.flags.set f v } = .next u ∧
      u = { t with flags := u.flags } ∧ ∀ g, g ≠ f → u.flags.get g = t.flags.get g
end

