-- ==== Sys2Proof/Laws/Decode.lean ====
section
/-! SUPPORT. The laws of the byte-order helpers and of the decoder's three formats. -/

namespace Sys2Proof

/-- A joined word is h * 256 + l (00_scope.md R9). -/
theorem toNat_joinBytes (h l : Byte) : (joinBytes h l).toNat = h.toNat * 256 + l.toNat := by
  unfold joinBytes
  rw [BitVec.toNat_append, Nat.shiftLeft_eq]
  have := Nat.two_pow_add_eq_or_of_lt (i := 8) (b := l.toNat) l.isLt h.toNat
  rw [Nat.mul_comm, ← this]

theorem toNat_hiByte (w : Addr) : (hiByte w).toNat = w.toNat / 256 := by
  have := w.isLt
  simp only [hiByte, BitVec.extractLsb'_toNat, Nat.shiftRight_eq_div_pow]
  omega

theorem toNat_loByte (w : Addr) : (loByte w).toNat = w.toNat % 256 := by
  simp [loByte, BitVec.extractLsb'_toNat]

@[simp] theorem hiByte_joinBytes (h l : Byte) : hiByte (joinBytes h l) = h := by
  have := l.isLt
  apply BitVec.eq_of_toNat_eq
  rw [toNat_hiByte, toNat_joinBytes]
  omega

@[simp] theorem loByte_joinBytes (h l : Byte) : loByte (joinBytes h l) = l := by
  have := l.isLt
  apply BitVec.eq_of_toNat_eq
  rw [toNat_loByte, toNat_joinBytes]
  omega

@[simp] theorem joinBytes_hi_lo (w : Addr) : joinBytes (hiByte w) (loByte w) = w := by
  apply BitVec.eq_of_toNat_eq
  rw [toNat_joinBytes, toNat_hiByte, toNat_loByte]
  omega

/-- The byte of a displacement reads back as the displacement, in the range of a byte. -/
theorem toInt_displacementByte (off : Int) (h : displacementFits off = true) : (displacementByte off).toInt = off := by
  simp only [displacementFits, decide_eq_true_eq] at h
  unfold displacementByte
  rw [BitVec.toInt_ofInt, Int.bmod_eq_of_le (by omega) (by omega)]

theorem displacementByte_toInt (b : Byte) : displacementByte b.toInt = b := by simp [displacementByte]

/-- A byte read as a signed number is in range. -/
theorem displacementFits_toInt (b : Byte) : displacementFits b.toInt = true := by
  have := BitVec.toInt_lt (x := b)
  have := BitVec.le_toInt (x := b)
  simp only [displacementFits, decide_eq_true_eq]
  omega

/-- The two-byte formats take exactly one byte. -/
theorem takeByte_eq_ok (f : Byte → Instr) (bytes : List Byte) (i : Instr) (rest : List Byte) :
    takeByte f bytes = .ok (i, rest) ↔ ∃ b, bytes = b :: rest ∧ i = f b := by
  cases bytes with
  | nil => simp [takeByte]
  | cons b bs => simp [takeByte, eq_comm]; tauto

/-- The three-byte formats take exactly two bytes, low byte first. -/
theorem takeWord_eq_ok (f : Addr → Instr) (bytes : List Byte) (i : Instr) (rest : List Byte) :
    takeWord f bytes = .ok (i, rest) ↔ ∃ lo hi, bytes = lo :: hi :: rest ∧ i = f (joinBytes hi lo) := by
  match bytes with
  | [] => simp [takeWord]
  | [_] => simp [takeWord]
  | lo :: hi :: bs => simp [takeWord, eq_comm]; tauto

end Sys2Proof
end

