-- ==== Sys2Proof/Laws/Memory.lean ====
section
/-! SUPPORT. The memory's laws: what a read gives after each list operation, and that each keeps the canonical form. The reading
laws need no canonical form, so they hold of every state. -/

namespace Sys2Proof.Machine

theorem Memory.read_without (m : Memory) (a b : Nat) :
    Memory.read (Memory.without m a) b = if b = a then Config.unlistedByte else Memory.read m b := by
  induction m with
  | nil => simp [Memory.without, Memory.read]
  | cons cell rest ih =>
    by_cases h : cell.1 = a
    · by_cases hb : b = a <;> simp_all [Memory.without, Memory.read]
      intro hab; exact absurd hab.symm hb
    · by_cases hb : cell.1 = b
      · have : b ≠ a := fun e => h (hb.trans e)
        simp [Memory.without, Memory.read, hb, this]
      · simp [Memory.without, Memory.read, h, hb, ih]

theorem Memory.read_place (m : Memory) (a b : Nat) (v : Byte) (h : Memory.read m a = Config.unlistedByte)
    (hv : ∀ cell ∈ m, cell.1 ≠ a) :
    Memory.read (Memory.place m a v) b = if b = a then v else Memory.read m b := by
  induction m with
  | nil => simp [Memory.place, Memory.read, eq_comm]
  | cons cell rest ih =>
    have hc : cell.1 ≠ a := hv cell (by simp)
    have hr : Memory.read rest a = Config.unlistedByte := by simpa [Memory.read, hc] using h
    have ihr := ih hr (fun c hm => hv c (by simp [hm]))
    unfold Memory.place
    split
    · simp [Memory.read, eq_comm]
    · by_cases hb : cell.1 = b
      · have : b ≠ a := fun e => hc (hb.trans e)
        simp [Memory.read, hb, this]
      · simp [Memory.read, hb, ihr]

theorem Memory.without_ne (m : Memory) (a : Nat) : ∀ cell ∈ Memory.without m a, cell.1 ≠ a := by
  induction m with
  | nil => simp [Memory.without]
  | cons cell rest ih =>
    by_cases h : cell.1 = a
    · simpa [Memory.without, h] using ih
    · intro c hc
      rcases (by simpa [Memory.without, h] using hc : c = cell ∨ c ∈ Memory.without rest a) with rfl | hm
      · exact h
      · exact ih c hm

/-- A read after a write: the byte written at its address, the old byte everywhere else. -/
theorem Memory.read_write (m : Memory) (a b : Nat) (v : Byte) :
    Memory.read (Memory.write m a v) b = if b = a then v else Memory.read m b := by
  unfold Memory.write
  split
  · next h => rw [Memory.read_without]; split <;> simp_all
  · rw [Memory.read_place _ _ _ _ (by simp [Memory.read_without]) (Memory.without_ne m a), Memory.read_without]
    split <;> rfl

/-- The canonical form from a lower address on. -/
theorem Memory.wfFrom_mono (m : Memory) (low low' : Nat) (h : low' ≤ low) (hw : Memory.wfFrom low m = true) :
    Memory.wfFrom low' m = true := by
  cases m with
  | nil => rfl
  | cons cell rest =>
    simp only [Memory.wfFrom, Bool.and_eq_true, decide_eq_true_eq] at hw ⊢
    exact ⟨⟨⟨h.trans hw.1.1.1, hw.1.1.2⟩, hw.1.2⟩, hw.2⟩

theorem Memory.wfFrom_without (m : Memory) (low a : Nat) (hw : Memory.wfFrom low m = true) :
    Memory.wfFrom low (Memory.without m a) = true := by
  induction m generalizing low with
  | nil => rfl
  | cons cell rest ih =>
    simp only [Memory.wfFrom, Bool.and_eq_true, decide_eq_true_eq] at hw
    unfold Memory.without
    split
    · exact ih low (Memory.wfFrom_mono rest _ low (by omega) hw.2)
    · simp only [Memory.wfFrom, Bool.and_eq_true, decide_eq_true_eq]
      exact ⟨hw.1, ih _ hw.2⟩

theorem Memory.wfFrom_place (m : Memory) (low a : Nat) (v : Byte) (hw : Memory.wfFrom low m = true)
    (hne : ∀ cell ∈ m, cell.1 ≠ a) (hlow : low ≤ a) (ha : a < Config.memorySize) (hv : v ≠ Config.unlistedByte) :
    Memory.wfFrom low (Memory.place m a v) = true := by
  induction m generalizing low with
  | nil => simp [Memory.place, Memory.wfFrom, hlow, ha, hv]
  | cons cell rest ih =>
    have hc : cell.1 ≠ a := hne cell (by simp)
    simp only [Memory.wfFrom, Bool.and_eq_true, decide_eq_true_eq] at hw
    unfold Memory.place
    split
    · simp only [Memory.wfFrom, Bool.and_eq_true, decide_eq_true_eq]
      exact ⟨⟨⟨hlow, ha⟩, hv⟩, ⟨⟨by omega, hw.1.1.2⟩, hw.1.2⟩, hw.2⟩
    · simp only [Memory.wfFrom, Bool.and_eq_true, decide_eq_true_eq]
      exact ⟨hw.1, ih _ hw.2 (fun c hm => hne c (by simp [hm])) (by omega)⟩

/-- A write keeps the canonical form. -/
theorem Memory.wf_write (m : Memory) (a : Nat) (v : Byte) (hw : Memory.wf m = true) (ha : a < Config.memorySize) :
    Memory.wf (Memory.write m a v) = true := by
  unfold Memory.write
  split
  · exact Memory.wfFrom_without m 0 a hw
  · next hv =>
    exact Memory.wfFrom_place _ 0 a v (Memory.wfFrom_without m 0 a hw) (Memory.without_ne m a) (Nat.zero_le a) ha hv

/-- An address below where a canonical list starts is unlisted. -/
theorem Memory.read_below (m : Memory) (low a : Nat) (hw : Memory.wfFrom low m = true) (h : a < low) :
    Memory.read m a = Config.unlistedByte := by
  induction m generalizing low with
  | nil => rfl
  | cons cell rest ih =>
    simp only [Memory.wfFrom, Bool.and_eq_true, decide_eq_true_eq] at hw
    have : cell.1 ≠ a := by omega
    simpa [Memory.read, this] using ih _ hw.2 (by omega)

end Sys2Proof.Machine
end

