-- ==== Sys2Proof/Laws/State.lean ====
section
/-! SUPPORT. One lemma per field per update of the state: what each shared operation leaves in each field. -/

namespace Sys2Proof.Machine

/-! ### writeByte -/

@[simp] theorem State.writeByte_a (s : State) (addr : Addr) (v : Byte) : (s.writeByte addr v).a = s.a := rfl
@[simp] theorem State.writeByte_x (s : State) (addr : Addr) (v : Byte) : (s.writeByte addr v).x = s.x := rfl
@[simp] theorem State.writeByte_y (s : State) (addr : Addr) (v : Byte) : (s.writeByte addr v).y = s.y := rfl
@[simp] theorem State.writeByte_pc (s : State) (addr : Addr) (v : Byte) : (s.writeByte addr v).pc = s.pc := rfl
@[simp] theorem State.writeByte_sp (s : State) (addr : Addr) (v : Byte) : (s.writeByte addr v).sp = s.sp := rfl
@[simp] theorem State.writeByte_flags (s : State) (addr : Addr) (v : Byte) : (s.writeByte addr v).flags = s.flags := rfl
@[simp] theorem State.writeByte_budget (s : State) (addr : Addr) (v : Byte) : (s.writeByte addr v).budget = s.budget := rfl
@[simp] theorem State.writeByte_runState (s : State) (addr : Addr) (v : Byte) : (s.writeByte addr v).runState = s.runState := rfl
@[simp] theorem State.writeByte_resetDone (s : State) (addr : Addr) (v : Byte) : (s.writeByte addr v).resetDone = s.resetDone := rfl
@[simp] theorem State.writeByte_haltReason (s : State) (addr : Addr) (v : Byte) : (s.writeByte addr v).haltReason = s.haltReason := rfl
@[simp] theorem State.writeByte_faultReason (s : State) (addr : Addr) (v : Byte) : (s.writeByte addr v).faultReason = s.faultReason := rfl
@[simp] theorem State.writeByte_mem (s : State) (addr : Addr) (v : Byte) : (s.writeByte addr v).mem = Memory.write s.mem addr.toNat v := rfl
@[simp] theorem State.writeByte_params (s : State) (addr : Addr) (v : Byte) : (s.writeByte addr v).params = s.params := rfl

/-! ### writeWord -/

@[simp] theorem State.writeWord_a (s : State) (addr : Addr) (v : Addr) : (s.writeWord addr v).a = s.a := rfl
@[simp] theorem State.writeWord_x (s : State) (addr : Addr) (v : Addr) : (s.writeWord addr v).x = s.x := rfl
@[simp] theorem State.writeWord_y (s : State) (addr : Addr) (v : Addr) : (s.writeWord addr v).y = s.y := rfl
@[simp] theorem State.writeWord_pc (s : State) (addr : Addr) (v : Addr) : (s.writeWord addr v).pc = s.pc := rfl
@[simp] theorem State.writeWord_sp (s : State) (addr : Addr) (v : Addr) : (s.writeWord addr v).sp = s.sp := rfl
@[simp] theorem State.writeWord_flags (s : State) (addr : Addr) (v : Addr) : (s.writeWord addr v).flags = s.flags := rfl
@[simp] theorem State.writeWord_budget (s : State) (addr : Addr) (v : Addr) : (s.writeWord addr v).budget = s.budget := rfl
@[simp] theorem State.writeWord_runState (s : State) (addr : Addr) (v : Addr) : (s.writeWord addr v).runState = s.runState := rfl
@[simp] theorem State.writeWord_resetDone (s : State) (addr : Addr) (v : Addr) : (s.writeWord addr v).resetDone = s.resetDone := rfl
@[simp] theorem State.writeWord_haltReason (s : State) (addr : Addr) (v : Addr) : (s.writeWord addr v).haltReason = s.haltReason := rfl
@[simp] theorem State.writeWord_faultReason (s : State) (addr : Addr) (v : Addr) : (s.writeWord addr v).faultReason = s.faultReason := rfl
@[simp] theorem State.writeWord_mem (s : State) (addr : Addr) (v : Addr) : (s.writeWord addr v).mem = Memory.write (Memory.write s.mem addr.toNat (loByte v)) (addr + 1).toNat (hiByte v) := rfl
@[simp] theorem State.writeWord_params (s : State) (addr : Addr) (v : Addr) : (s.writeWord addr v).params = s.params := rfl

/-! ### advancePc -/

@[simp] theorem State.advancePc_a (s : State) (n : Nat) : (s.advancePc n).a = s.a := rfl
@[simp] theorem State.advancePc_x (s : State) (n : Nat) : (s.advancePc n).x = s.x := rfl
@[simp] theorem State.advancePc_y (s : State) (n : Nat) : (s.advancePc n).y = s.y := rfl
@[simp] theorem State.advancePc_pc (s : State) (n : Nat) : (s.advancePc n).pc = s.pc + BitVec.ofNat 16 n := rfl
@[simp] theorem State.advancePc_sp (s : State) (n : Nat) : (s.advancePc n).sp = s.sp := rfl
@[simp] theorem State.advancePc_flags (s : State) (n : Nat) : (s.advancePc n).flags = s.flags := rfl
@[simp] theorem State.advancePc_budget (s : State) (n : Nat) : (s.advancePc n).budget = s.budget := rfl
@[simp] theorem State.advancePc_runState (s : State) (n : Nat) : (s.advancePc n).runState = s.runState := rfl
@[simp] theorem State.advancePc_resetDone (s : State) (n : Nat) : (s.advancePc n).resetDone = s.resetDone := rfl
@[simp] theorem State.advancePc_haltReason (s : State) (n : Nat) : (s.advancePc n).haltReason = s.haltReason := rfl
@[simp] theorem State.advancePc_faultReason (s : State) (n : Nat) : (s.advancePc n).faultReason = s.faultReason := rfl
@[simp] theorem State.advancePc_mem (s : State) (n : Nat) : (s.advancePc n).mem = s.mem := rfl
@[simp] theorem State.advancePc_params (s : State) (n : Nat) : (s.advancePc n).params = s.params := rfl

/-! ### push8 -/

@[simp] theorem State.push8_a (s : State) (v : Byte) : (s.push8 v).a = s.a := rfl
@[simp] theorem State.push8_x (s : State) (v : Byte) : (s.push8 v).x = s.x := rfl
@[simp] theorem State.push8_y (s : State) (v : Byte) : (s.push8 v).y = s.y := rfl
@[simp] theorem State.push8_pc (s : State) (v : Byte) : (s.push8 v).pc = s.pc := rfl
@[simp] theorem State.push8_sp (s : State) (v : Byte) : (s.push8 v).sp = s.sp - 1 := rfl
@[simp] theorem State.push8_flags (s : State) (v : Byte) : (s.push8 v).flags = s.flags := rfl
@[simp] theorem State.push8_budget (s : State) (v : Byte) : (s.push8 v).budget = s.budget := rfl
@[simp] theorem State.push8_runState (s : State) (v : Byte) : (s.push8 v).runState = s.runState := rfl
@[simp] theorem State.push8_resetDone (s : State) (v : Byte) : (s.push8 v).resetDone = s.resetDone := rfl
@[simp] theorem State.push8_haltReason (s : State) (v : Byte) : (s.push8 v).haltReason = s.haltReason := rfl
@[simp] theorem State.push8_faultReason (s : State) (v : Byte) : (s.push8 v).faultReason = s.faultReason := rfl
@[simp] theorem State.push8_mem (s : State) (v : Byte) : (s.push8 v).mem = Memory.write s.mem (stackAddr s.sp).toNat v := rfl
@[simp] theorem State.push8_params (s : State) (v : Byte) : (s.push8 v).params = s.params := rfl

/-! ### pop8_snd -/

@[simp] theorem State.pop8_snd_a (s : State) : (s.pop8.2).a = s.a := rfl
@[simp] theorem State.pop8_snd_x (s : State) : (s.pop8.2).x = s.x := rfl
@[simp] theorem State.pop8_snd_y (s : State) : (s.pop8.2).y = s.y := rfl
@[simp] theorem State.pop8_snd_pc (s : State) : (s.pop8.2).pc = s.pc := rfl
@[simp] theorem State.pop8_snd_sp (s : State) : (s.pop8.2).sp = s.sp + 1 := rfl
@[simp] theorem State.pop8_snd_flags (s : State) : (s.pop8.2).flags = s.flags := rfl
@[simp] theorem State.pop8_snd_budget (s : State) : (s.pop8.2).budget = s.budget := rfl
@[simp] theorem State.pop8_snd_runState (s : State) : (s.pop8.2).runState = s.runState := rfl
@[simp] theorem State.pop8_snd_resetDone (s : State) : (s.pop8.2).resetDone = s.resetDone := rfl
@[simp] theorem State.pop8_snd_haltReason (s : State) : (s.pop8.2).haltReason = s.haltReason := rfl
@[simp] theorem State.pop8_snd_faultReason (s : State) : (s.pop8.2).faultReason = s.faultReason := rfl
@[simp] theorem State.pop8_snd_mem (s : State) : (s.pop8.2).mem = s.mem := rfl
@[simp] theorem State.pop8_snd_params (s : State) : (s.pop8.2).params = s.params := rfl

/-! ### push16 -/

@[simp] theorem State.push16_a (s : State) (w : Addr) : (s.push16 w).a = s.a := rfl
@[simp] theorem State.push16_x (s : State) (w : Addr) : (s.push16 w).x = s.x := rfl
@[simp] theorem State.push16_y (s : State) (w : Addr) : (s.push16 w).y = s.y := rfl
@[simp] theorem State.push16_pc (s : State) (w : Addr) : (s.push16 w).pc = s.pc := rfl
@[simp] theorem State.push16_sp (s : State) (w : Addr) : (s.push16 w).sp = s.sp - 1 - 1 := rfl
@[simp] theorem State.push16_flags (s : State) (w : Addr) : (s.push16 w).flags = s.flags := rfl
@[simp] theorem State.push16_budget (s : State) (w : Addr) : (s.push16 w).budget = s.budget := rfl
@[simp] theorem State.push16_runState (s : State) (w : Addr) : (s.push16 w).runState = s.runState := rfl
@[simp] theorem State.push16_resetDone (s : State) (w : Addr) : (s.push16 w).resetDone = s.resetDone := rfl
@[simp] theorem State.push16_haltReason (s : State) (w : Addr) : (s.push16 w).haltReason = s.haltReason := rfl
@[simp] theorem State.push16_faultReason (s : State) (w : Addr) : (s.push16 w).faultReason = s.faultReason := rfl
@[simp] theorem State.push16_params (s : State) (w : Addr) : (s.push16 w).params = s.params := rfl

/-! ### pop16_snd -/

@[simp] theorem State.pop16_snd_a (s : State) : (s.pop16.2).a = s.a := rfl
@[simp] theorem State.pop16_snd_x (s : State) : (s.pop16.2).x = s.x := rfl
@[simp] theorem State.pop16_snd_y (s : State) : (s.pop16.2).y = s.y := rfl
@[simp] theorem State.pop16_snd_pc (s : State) : (s.pop16.2).pc = s.pc := rfl
@[simp] theorem State.pop16_snd_sp (s : State) : (s.pop16.2).sp = s.sp + 1 + 1 := rfl
@[simp] theorem State.pop16_snd_flags (s : State) : (s.pop16.2).flags = s.flags := rfl
@[simp] theorem State.pop16_snd_budget (s : State) : (s.pop16.2).budget = s.budget := rfl
@[simp] theorem State.pop16_snd_runState (s : State) : (s.pop16.2).runState = s.runState := rfl
@[simp] theorem State.pop16_snd_resetDone (s : State) : (s.pop16.2).resetDone = s.resetDone := rfl
@[simp] theorem State.pop16_snd_haltReason (s : State) : (s.pop16.2).haltReason = s.haltReason := rfl
@[simp] theorem State.pop16_snd_faultReason (s : State) : (s.pop16.2).faultReason = s.faultReason := rfl
@[simp] theorem State.pop16_snd_mem (s : State) : (s.pop16.2).mem = s.mem := rfl
@[simp] theorem State.pop16_snd_params (s : State) : (s.pop16.2).params = s.params := rfl

/-! ### setZN -/

@[simp] theorem State.setZN_a (s : State) (v : Byte) : (s.setZN v).a = s.a := rfl
@[simp] theorem State.setZN_x (s : State) (v : Byte) : (s.setZN v).x = s.x := rfl
@[simp] theorem State.setZN_y (s : State) (v : Byte) : (s.setZN v).y = s.y := rfl
@[simp] theorem State.setZN_pc (s : State) (v : Byte) : (s.setZN v).pc = s.pc := rfl
@[simp] theorem State.setZN_sp (s : State) (v : Byte) : (s.setZN v).sp = s.sp := rfl
@[simp] theorem State.setZN_flags (s : State) (v : Byte) : (s.setZN v).flags = s.flags.withZN s.params v := rfl
@[simp] theorem State.setZN_budget (s : State) (v : Byte) : (s.setZN v).budget = s.budget := rfl
@[simp] theorem State.setZN_runState (s : State) (v : Byte) : (s.setZN v).runState = s.runState := rfl
@[simp] theorem State.setZN_resetDone (s : State) (v : Byte) : (s.setZN v).resetDone = s.resetDone := rfl
@[simp] theorem State.setZN_haltReason (s : State) (v : Byte) : (s.setZN v).haltReason = s.haltReason := rfl
@[simp] theorem State.setZN_faultReason (s : State) (v : Byte) : (s.setZN v).faultReason = s.faultReason := rfl
@[simp] theorem State.setZN_mem (s : State) (v : Byte) : (s.setZN v).mem = s.mem := rfl
@[simp] theorem State.setZN_params (s : State) (v : Byte) : (s.setZN v).params = s.params := rfl

/-! ### loadA -/

@[simp] theorem State.loadA_a (s : State) (v : Byte) : (s.loadA v).a = v := rfl
@[simp] theorem State.loadA_x (s : State) (v : Byte) : (s.loadA v).x = s.x := rfl
@[simp] theorem State.loadA_y (s : State) (v : Byte) : (s.loadA v).y = s.y := rfl
@[simp] theorem State.loadA_pc (s : State) (v : Byte) : (s.loadA v).pc = s.pc := rfl
@[simp] theorem State.loadA_sp (s : State) (v : Byte) : (s.loadA v).sp = s.sp := rfl
@[simp] theorem State.loadA_flags (s : State) (v : Byte) : (s.loadA v).flags = s.flags.withZN s.params v := rfl
@[simp] theorem State.loadA_budget (s : State) (v : Byte) : (s.loadA v).budget = s.budget := rfl
@[simp] theorem State.loadA_runState (s : State) (v : Byte) : (s.loadA v).runState = s.runState := rfl
@[simp] theorem State.loadA_resetDone (s : State) (v : Byte) : (s.loadA v).resetDone = s.resetDone := rfl
@[simp] theorem State.loadA_haltReason (s : State) (v : Byte) : (s.loadA v).haltReason = s.haltReason := rfl
@[simp] theorem State.loadA_faultReason (s : State) (v : Byte) : (s.loadA v).faultReason = s.faultReason := rfl
@[simp] theorem State.loadA_mem (s : State) (v : Byte) : (s.loadA v).mem = s.mem := rfl
@[simp] theorem State.loadA_params (s : State) (v : Byte) : (s.loadA v).params = s.params := rfl

/-! ### loadX -/

@[simp] theorem State.loadX_a (s : State) (v : Byte) : (s.loadX v).a = s.a := rfl
@[simp] theorem State.loadX_x (s : State) (v : Byte) : (s.loadX v).x = v := rfl
@[simp] theorem State.loadX_y (s : State) (v : Byte) : (s.loadX v).y = s.y := rfl
@[simp] theorem State.loadX_pc (s : State) (v : Byte) : (s.loadX v).pc = s.pc := rfl
@[simp] theorem State.loadX_sp (s : State) (v : Byte) : (s.loadX v).sp = s.sp := rfl
@[simp] theorem State.loadX_flags (s : State) (v : Byte) : (s.loadX v).flags = s.flags.withZN s.params v := rfl
@[simp] theorem State.loadX_budget (s : State) (v : Byte) : (s.loadX v).budget = s.budget := rfl
@[simp] theorem State.loadX_runState (s : State) (v : Byte) : (s.loadX v).runState = s.runState := rfl
@[simp] theorem State.loadX_resetDone (s : State) (v : Byte) : (s.loadX v).resetDone = s.resetDone := rfl
@[simp] theorem State.loadX_haltReason (s : State) (v : Byte) : (s.loadX v).haltReason = s.haltReason := rfl
@[simp] theorem State.loadX_faultReason (s : State) (v : Byte) : (s.loadX v).faultReason = s.faultReason := rfl
@[simp] theorem State.loadX_mem (s : State) (v : Byte) : (s.loadX v).mem = s.mem := rfl
@[simp] theorem State.loadX_params (s : State) (v : Byte) : (s.loadX v).params = s.params := rfl

/-! ### enterInterrupt -/

@[simp] theorem State.enterInterrupt_a (s : State) (w : Addr) : (s.enterInterrupt w).a = s.a := by
  simp [State.enterInterrupt]
@[simp] theorem State.enterInterrupt_x (s : State) (w : Addr) : (s.enterInterrupt w).x = s.x := by
  simp [State.enterInterrupt]
@[simp] theorem State.enterInterrupt_y (s : State) (w : Addr) : (s.enterInterrupt w).y = s.y := by
  simp [State.enterInterrupt]
@[simp] theorem State.enterInterrupt_sp (s : State) (w : Addr) : (s.enterInterrupt w).sp = s.sp - 1 - 1 - 1 := by
  simp [State.enterInterrupt]
@[simp] theorem State.enterInterrupt_flags (s : State) (w : Addr) : (s.enterInterrupt w).flags = s.flags.withBreak := by
  simp [State.enterInterrupt]
@[simp] theorem State.enterInterrupt_budget (s : State) (w : Addr) : (s.enterInterrupt w).budget = s.budget := by
  simp [State.enterInterrupt]
@[simp] theorem State.enterInterrupt_runState (s : State) (w : Addr) : (s.enterInterrupt w).runState = s.runState := by
  simp [State.enterInterrupt]
@[simp] theorem State.enterInterrupt_resetDone (s : State) (w : Addr) : (s.enterInterrupt w).resetDone = s.resetDone := by
  simp [State.enterInterrupt]
@[simp] theorem State.enterInterrupt_haltReason (s : State) (w : Addr) : (s.enterInterrupt w).haltReason = s.haltReason := by
  simp [State.enterInterrupt]
@[simp] theorem State.enterInterrupt_faultReason (s : State) (w : Addr) : (s.enterInterrupt w).faultReason = s.faultReason := by
  simp [State.enterInterrupt]
@[simp] theorem State.enterInterrupt_params (s : State) (w : Addr) : (s.enterInterrupt w).params = s.params := by
  simp [State.enterInterrupt]

/-! ### leaveInterrupt -/

@[simp] theorem State.leaveInterrupt_a (s : State) : (s.leaveInterrupt).a = s.a := rfl
@[simp] theorem State.leaveInterrupt_x (s : State) : (s.leaveInterrupt).x = s.x := rfl
@[simp] theorem State.leaveInterrupt_y (s : State) : (s.leaveInterrupt).y = s.y := rfl
@[simp] theorem State.leaveInterrupt_sp (s : State) : (s.leaveInterrupt).sp = s.sp + 1 + 1 + 1 := rfl
@[simp] theorem State.leaveInterrupt_flags (s : State) : (s.leaveInterrupt).flags = unpackFlags s.pop8.1 := rfl
@[simp] theorem State.leaveInterrupt_budget (s : State) : (s.leaveInterrupt).budget = s.budget := rfl
@[simp] theorem State.leaveInterrupt_runState (s : State) : (s.leaveInterrupt).runState = s.runState := rfl
@[simp] theorem State.leaveInterrupt_resetDone (s : State) : (s.leaveInterrupt).resetDone = s.resetDone := rfl
@[simp] theorem State.leaveInterrupt_haltReason (s : State) : (s.leaveInterrupt).haltReason = s.haltReason := rfl
@[simp] theorem State.leaveInterrupt_faultReason (s : State) : (s.leaveInterrupt).faultReason = s.faultReason := rfl
@[simp] theorem State.leaveInterrupt_mem (s : State) : (s.leaveInterrupt).mem = s.mem := rfl
@[simp] theorem State.leaveInterrupt_params (s : State) : (s.leaveInterrupt).params = s.params := rfl

/-! ### halt -/

@[simp] theorem State.halt_a (s : State) (r : HaltReason) : (s.halt r).a = s.a := rfl
@[simp] theorem State.halt_x (s : State) (r : HaltReason) : (s.halt r).x = s.x := rfl
@[simp] theorem State.halt_y (s : State) (r : HaltReason) : (s.halt r).y = s.y := rfl
@[simp] theorem State.halt_pc (s : State) (r : HaltReason) : (s.halt r).pc = s.pc := rfl
@[simp] theorem State.halt_sp (s : State) (r : HaltReason) : (s.halt r).sp = s.sp := rfl
@[simp] theorem State.halt_flags (s : State) (r : HaltReason) : (s.halt r).flags = s.flags := rfl
@[simp] theorem State.halt_budget (s : State) (r : HaltReason) : (s.halt r).budget = s.budget := rfl
@[simp] theorem State.halt_runState (s : State) (r : HaltReason) : (s.halt r).runState = .halted := rfl
@[simp] theorem State.halt_resetDone (s : State) (r : HaltReason) : (s.halt r).resetDone = s.resetDone := rfl
@[simp] theorem State.halt_haltReason (s : State) (r : HaltReason) : (s.halt r).haltReason = r := rfl
@[simp] theorem State.halt_faultReason (s : State) (r : HaltReason) : (s.halt r).faultReason = s.faultReason := rfl
@[simp] theorem State.halt_mem (s : State) (r : HaltReason) : (s.halt r).mem = s.mem := rfl
@[simp] theorem State.halt_params (s : State) (r : HaltReason) : (s.halt r).params = s.params := rfl

/-! ### raiseFault -/

@[simp] theorem State.raiseFault_a (s : State) (r : FaultReason) : (s.raiseFault r).a = s.a := rfl
@[simp] theorem State.raiseFault_x (s : State) (r : FaultReason) : (s.raiseFault r).x = s.x := rfl
@[simp] theorem State.raiseFault_y (s : State) (r : FaultReason) : (s.raiseFault r).y = s.y := rfl
@[simp] theorem State.raiseFault_pc (s : State) (r : FaultReason) : (s.raiseFault r).pc = s.pc := rfl
@[simp] theorem State.raiseFault_sp (s : State) (r : FaultReason) : (s.raiseFault r).sp = s.sp := rfl
@[simp] theorem State.raiseFault_flags (s : State) (r : FaultReason) : (s.raiseFault r).flags = s.flags := rfl
@[simp] theorem State.raiseFault_budget (s : State) (r : FaultReason) : (s.raiseFault r).budget = s.budget := rfl
@[simp] theorem State.raiseFault_runState (s : State) (r : FaultReason) : (s.raiseFault r).runState = .faulted := rfl
@[simp] theorem State.raiseFault_resetDone (s : State) (r : FaultReason) : (s.raiseFault r).resetDone = s.resetDone := rfl
@[simp] theorem State.raiseFault_haltReason (s : State) (r : FaultReason) : (s.raiseFault r).haltReason = s.haltReason := rfl
@[simp] theorem State.raiseFault_faultReason (s : State) (r : FaultReason) : (s.raiseFault r).faultReason = r := rfl
@[simp] theorem State.raiseFault_mem (s : State) (r : FaultReason) : (s.raiseFault r).mem = s.mem := rfl
@[simp] theorem State.raiseFault_params (s : State) (r : FaultReason) : (s.raiseFault r).params = s.params := rfl

/-! ### beginCall -/

@[simp] theorem State.beginCall_a (s : State) (b : Nat) : (s.beginCall b).a = s.a := rfl
@[simp] theorem State.beginCall_x (s : State) (b : Nat) : (s.beginCall b).x = s.x := rfl
@[simp] theorem State.beginCall_y (s : State) (b : Nat) : (s.beginCall b).y = s.y := rfl
@[simp] theorem State.beginCall_pc (s : State) (b : Nat) : (s.beginCall b).pc = s.pc := rfl
@[simp] theorem State.beginCall_sp (s : State) (b : Nat) : (s.beginCall b).sp = s.sp := rfl
@[simp] theorem State.beginCall_flags (s : State) (b : Nat) : (s.beginCall b).flags = s.flags := rfl
@[simp] theorem State.beginCall_budget (s : State) (b : Nat) : (s.beginCall b).budget = b := rfl
@[simp] theorem State.beginCall_runState (s : State) (b : Nat) : (s.beginCall b).runState = .running := rfl
@[simp] theorem State.beginCall_resetDone (s : State) (b : Nat) : (s.beginCall b).resetDone = s.resetDone := rfl
@[simp] theorem State.beginCall_haltReason (s : State) (b : Nat) : (s.beginCall b).haltReason = .none := rfl
@[simp] theorem State.beginCall_faultReason (s : State) (b : Nat) : (s.beginCall b).faultReason = .none := rfl
@[simp] theorem State.beginCall_mem (s : State) (b : Nat) : (s.beginCall b).mem = s.mem := rfl
@[simp] theorem State.beginCall_params (s : State) (b : Nat) : (s.beginCall b).params = s.params := rfl

/-! ### incrementByte and charge -/

@[simp] theorem State.incrementByte_a (s : State) (ea : Addr) : (s.incrementByte ea).a = s.a := by
  unfold State.incrementByte
  dsimp only
  split <;> rfl

@[simp] theorem State.incrementByte_x (s : State) (ea : Addr) : (s.incrementByte ea).x = s.x := by
  unfold State.incrementByte
  dsimp only
  split <;> rfl

@[simp] theorem State.incrementByte_y (s : State) (ea : Addr) : (s.incrementByte ea).y = s.y := by
  unfold State.incrementByte
  dsimp only
  split <;> rfl

@[simp] theorem State.incrementByte_pc (s : State) (ea : Addr) : (s.incrementByte ea).pc = s.pc := by
  unfold State.incrementByte
  dsimp only
  split <;> rfl

@[simp] theorem State.incrementByte_sp (s : State) (ea : Addr) : (s.incrementByte ea).sp = s.sp := by
  unfold State.incrementByte
  dsimp only
  split <;> rfl

@[simp] theorem State.incrementByte_budget (s : State) (ea : Addr) : (s.incrementByte ea).budget = s.budget := by
  unfold State.incrementByte
  dsimp only
  split <;> rfl

@[simp] theorem State.incrementByte_runState (s : State) (ea : Addr) : (s.incrementByte ea).runState = s.runState := by
  unfold State.incrementByte
  dsimp only
  split <;> rfl

@[simp] theorem State.incrementByte_resetDone (s : State) (ea : Addr) : (s.incrementByte ea).resetDone = s.resetDone := by
  unfold State.incrementByte
  dsimp only
  split <;> rfl

@[simp] theorem State.incrementByte_haltReason (s : State) (ea : Addr) : (s.incrementByte ea).haltReason = s.haltReason := by
  unfold State.incrementByte
  dsimp only
  split <;> rfl

@[simp] theorem State.incrementByte_faultReason (s : State) (ea : Addr) : (s.incrementByte ea).faultReason = s.faultReason := by
  unfold State.incrementByte
  dsimp only
  split <;> rfl

@[simp] theorem State.incrementByte_params (s : State) (ea : Addr) : (s.incrementByte ea).params = s.params := by
  unfold State.incrementByte
  dsimp only
  split <;> rfl

@[simp] theorem State.incrementByte_mem (s : State) (ea : Addr) :
    (s.incrementByte ea).mem = Memory.write s.mem ea.toNat (s.readByte ea + 1) := by
  unfold State.incrementByte
  dsimp only
  split <;> rfl

@[simp] theorem State.incrementByte_flags (s : State) (ea : Addr) :
    (s.incrementByte ea).flags =
      if s.params.incUpdatesZN then s.flags.withZN s.params (s.readByte ea + 1) else s.flags := by
  cases h : s.params.incUpdatesZN <;> simp [State.incrementByte, h]

/-- A charge the budget covers. -/
theorem State.charge_of_le (s : State) (n : Nat) (h : n ≤ s.budget) : s.charge n = { s with budget := s.budget - n } := by
  simp [State.charge, h]

end Sys2Proof.Machine
end

