-- ==== Sys2Proof/Laws/Ops.lean ====
section
/-! SUPPORT. What the shared operations over bytes, words and the stack page do, for every state. -/

namespace Sys2Proof.Machine

/-! ### Reading -/

/-- A read looks at the memory alone. -/
theorem State.readByte_congr {s t : State} (h : t.mem = s.mem) (addr : Addr) : t.readByte addr = s.readByte addr := by
  simp [State.readByte, h]

/-- A read after a byte write. -/
theorem State.readByte_writeByte (s : State) (a b : Addr) (v : Byte) :
    (s.writeByte a v).readByte b = if b = a then v else s.readByte b := by
  simp only [State.readByte, State.writeByte_mem, Memory.read_write, BitVec.toNat_inj]

@[simp] theorem State.readByte_advancePc (s : State) (n : Nat) (b : Addr) :
    (s.advancePc n).readByte b = s.readByte b := rfl

@[simp] theorem State.readByte_setZN (s : State) (v : Byte) (b : Addr) : (s.setZN v).readByte b = s.readByte b := rfl

@[simp] theorem State.readByte_loadA (s : State) (v : Byte) (b : Addr) : (s.loadA v).readByte b = s.readByte b := rfl

@[simp] theorem State.readByte_loadX (s : State) (v : Byte) (b : Addr) : (s.loadX v).readByte b = s.readByte b := rfl

@[simp] theorem State.readByte_pop8 (s : State) (b : Addr) : (s.pop8.2).readByte b = s.readByte b := rfl

@[simp] theorem State.readByte_pop16 (s : State) (b : Addr) : (s.pop16.2).readByte b = s.readByte b := rfl

/-! ### The stack page -/

/-- The stack address is the page's base plus SP. -/
theorem toNat_stackAddr (sp : Byte) : (stackAddr sp).toNat = 0x0100 + sp.toNat := by
  unfold stackAddr
  have := Nat.two_pow_add_eq_or_of_lt (i := 8) (b := sp.toNat) sp.isLt 1
  simpa [BitVec.toNat_or, Nat.mod_eq_of_lt (show sp.toNat < 65536 by have := sp.isLt; omega)] using this.symm

@[simp] theorem stackAddr_inj (p q : Byte) : stackAddr p = stackAddr q ↔ p = q := by
  rw [← BitVec.toNat_inj, toNat_stackAddr, toNat_stackAddr, ← BitVec.toNat_inj]
  omega

/-- A read after a push. -/
theorem State.readByte_push8 (s : State) (v : Byte) (b : Addr) :
    (s.push8 v).readByte b = if b = stackAddr s.sp then v else s.readByte b :=
  State.readByte_writeByte s _ b v

/-- A read after a word push: the low byte lies below the high one. -/
theorem State.readByte_push16 (s : State) (w : Addr) (b : Addr) :
    (s.push16 w).readByte b =
      if b = stackAddr (s.sp - 1) then loByte w else if b = stackAddr s.sp then hiByte w else s.readByte b := by
  simp [State.push16, State.readByte_push8]

/-- What a word pop answers: the word at SP + 1 and SP + 2, and SP two up. -/
theorem State.pop16_eq (s : State) :
    s.pop16 = (joinBytes (s.readByte (stackAddr (s.sp + 1 + 1))) (s.readByte (stackAddr (s.sp + 1))),
      { s with sp := s.sp + 1 + 1 }) := rfl

/-- A read after an increment of the byte at `ea`. -/
theorem State.readByte_incrementByte (s : State) (ea b : Addr) :
    (s.incrementByte ea).readByte b = if b = ea then s.readByte ea + 1 else s.readByte b := by
  rw [← State.readByte_writeByte]
  exact State.readByte_congr (by simp) b

/-! ### The software interrupt -/

/-- Interrupt entry, in one equation: three bytes pushed, PC from the vector read after them, B and I set. -/
theorem State.enterInterrupt_eq (s : State) (w : Addr) :
    s.enterInterrupt w =
      { (s.push16 w).push8 s.flags.pack with
        pc := ((s.push16 w).push8 s.flags.pack).readWord s.params.irqVector
        flags := { s.flags with b := true, i := true } } := rfl

/-- Interrupt return, in one equation. -/
theorem State.leaveInterrupt_eq (s : State) :
    s.leaveInterrupt =
      { s with
        sp := s.sp + 1 + 1 + 1
        flags := unpackFlags (s.readByte (stackAddr (s.sp + 1)))
        pc := joinBytes (s.readByte (stackAddr (s.sp + 1 + 1 + 1))) (s.readByte (stackAddr (s.sp + 1 + 1))) + 1 } := rfl

/-! ### The canonical form of memory -/

theorem State.wf_writeByte (s : State) (a : Addr) (v : Byte) (h : Memory.wf s.mem = true) :
    Memory.wf (s.writeByte a v).mem = true :=
  Memory.wf_write _ _ _ h a.isLt

theorem State.wf_writeBytes (s : State) (a : Addr) (bytes : List Byte) (h : Memory.wf s.mem = true) :
    Memory.wf (s.writeBytes a bytes).mem = true := by
  induction bytes generalizing s a with
  | nil => exact h
  | cons v vs ih => exact ih _ _ (s.wf_writeByte a v h)

theorem State.wf_push8 (s : State) (v : Byte) (h : Memory.wf s.mem = true) : Memory.wf (s.push8 v).mem = true :=
  s.wf_writeByte _ v h

theorem State.wf_push16 (s : State) (w : Addr) (h : Memory.wf s.mem = true) : Memory.wf (s.push16 w).mem = true :=
  State.wf_push8 _ _ (s.wf_push8 _ h)

theorem State.wf_incrementByte (s : State) (ea : Addr) (h : Memory.wf s.mem = true) :
    Memory.wf (s.incrementByte ea).mem = true := by
  simpa using Memory.wf_write _ _ _ h ea.isLt

theorem State.wf_enterInterrupt (s : State) (w : Addr) (h : Memory.wf s.mem = true) :
    Memory.wf (s.enterInterrupt w).mem = true :=
  State.wf_push8 _ _ (s.wf_push16 w h)

/-- Memory.wf holds right after reset. -/
theorem State.wf_reset : Memory.wf State.reset.mem = true := rfl

end Sys2Proof.Machine
end

