-- ==== Sys2Proof/Laws/Engine.lean ====
section
/-! SUPPORT. What exec and the step can do, said once: exec always answers a next state, and a step of a live core halts,
faults, or runs one instruction and charges it. -/

namespace Sys2Proof.Machine

/-! ### exec -/

/-- No instruction stops: "a started instruction raises nothing" (60_exceptions.md R123). -/
theorem exec_next (i : Instr) (s : State) : ∃ t, exec i s = .next t := by
  cases i <;> exact ⟨_, rfl⟩

/-- The state an instruction leaves. -/
def execState (i : Instr) (s : State) : State :=
  match exec i s with
  | .next t => t
  | .fault _ => s
  | .refused _ => s

theorem exec_eq (i : Instr) (s : State) : exec i s = .next (execState i s) := by
  obtain ⟨t, h⟩ := exec_next i s
  simp [execState, h]

/-- No instruction writes the budget, the control state, the parameters or Y. -/
theorem execState_control (i : Instr) (s : State) :
    (execState i s).budget = s.budget ∧ (execState i s).runState = s.runState ∧
    (execState i s).resetDone = s.resetDone ∧ (execState i s).haltReason = s.haltReason ∧
    (execState i s).faultReason = s.faultReason ∧ (execState i s).params = s.params ∧ (execState i s).y = s.y := by
  cases i
  case beq off => simp only [execState, exec, execBeq]; split <;> simp
  all_goals
    simp [execState, exec, execLdaImm, execLdaZp, execLdaZpX, execLdaAbs, execStaZp, execStaAbs, execJsr, execRts,
      execJmpAbs, execJmpInd, execPha, execPhp, execPla, execPlp, execTsx, execTxs, execTxa, execAndImm, execBitZp,
      execIncZpX, execIncAbsX, execNop, execBrk, execRti]

/-! ### Costs -/

theorem cost_pos (i : Instr) (s : State) : 2 ≤ cost i s := by
  have : 2 ≤ baseCycles i := by cases i <;> simp [baseCycles]
  unfold cost
  omega

theorem cost_le_largest (i : Instr) (s : State) : cost i s ≤ largestCost := by
  cases i <;> simp [cost, baseCycles, extraCycles, largestCost]
  split <;> omega

/-! ### The step -/

/-- A recognised instruction at PC: not started, or run and charged. -/
theorem runInstr_eq (i : Instr) (s : State) :
    runInstr i s =
      if s.budget < cost i s then .next (s.raiseFault .cycleUnderflow)
      else .next { execState i (s.advancePc 1) with budget := s.budget - cost i s } := by
  unfold runInstr
  dsimp only
  split
  · rfl
  · next h =>
    have hb := (execState_control i (s.advancePc 1)).1
    rw [exec_eq]
    simp only
    rw [State.charge_of_le _ _ (by rw [hb]; simpa using h), hb]
    rfl

/-- A step of a live core, in the order of its tests (40_engine.md R67). -/
theorem step_live (s : State) (h : s.live = true) :
    step s =
      if s.budget = 0 then .next (s.halt .budgetExhausted)
      else match decode s.fetchBytes with
        | .error _ => .next ({ s with budget := s.budget - 1 }.halt .unknownOpcode)
        | .ok (i, _) => runInstr i s := by
  simp only [State.live, Bool.and_eq_true, decide_eq_true_eq] at h
  have : step s = runningStep s := by simp [step, engineStep, h.1, h.2]
  rw [this, runningStep]
  split
  · rfl
  · next hb =>
    cases decode s.fetchBytes with
    | error _ => simp only [State.charge_of_le s 1 (by omega)]
    | ok _ => rfl

/-- A step that answers a next state is one of a live core, or of an idle or halted one, which it leaves as it is. -/
theorem step_live_or_rest {s t : State} (h : step s = .next t) :
    s.live = true ∨ (t = s ∧ (s.runState = .idle ∨ s.runState = .halted)) := by
  unfold step engineStep at h
  split at h
  · next hr => exact .inr ⟨(Host.Outcome.next.inj h).symm, .inl hr⟩
  · next hr => exact .inr ⟨(Host.Outcome.next.inj h).symm, .inr hr⟩
  · cases h
  · next hr =>
    split at h
    · next hd => exact .inl (by simp [State.live, hr, hd])
    · cases h

/-- Everything a step that answers a next state can have done. -/
theorem step_cases {s t : State} (h : step s = .next t) :
    (t = s ∧ (s.runState = .idle ∨ s.runState = .halted)) ∨
    (s.live = true ∧ s.budget = 0 ∧ t = s.halt .budgetExhausted) ∨
    (s.live = true ∧ s.budget ≠ 0 ∧ (∃ e, decode s.fetchBytes = .error e) ∧
      t = { s with budget := s.budget - 1 }.halt .unknownOpcode) ∨
    (∃ i rest, s.live = true ∧ s.budget ≠ 0 ∧ decode s.fetchBytes = .ok (i, rest) ∧ s.budget < cost i s ∧
      t = s.raiseFault .cycleUnderflow) ∨
    (∃ i rest, s.live = true ∧ s.budget ≠ 0 ∧ decode s.fetchBytes = .ok (i, rest) ∧ cost i s ≤ s.budget ∧
      t = { execState i (s.advancePc 1) with budget := s.budget - cost i s }) := by
  rcases step_live_or_rest h with hl | hr
  · rw [step_live s hl] at h
    split at h
    · next hb => exact .inr (.inl ⟨hl, hb, (Host.Outcome.next.inj h).symm⟩)
    · next hb =>
      split at h
      · next e he => exact .inr (.inr (.inl ⟨hl, hb, ⟨e, he⟩, (Host.Outcome.next.inj h).symm⟩))
      · next i rest he =>
        rw [runInstr_eq] at h
        split at h
        · next hc => exact .inr (.inr (.inr (.inl ⟨i, rest, hl, hb, he, hc, (Host.Outcome.next.inj h).symm⟩)))
        · next hc =>
          exact .inr (.inr (.inr (.inr ⟨i, rest, hl, hb, he, Nat.le_of_not_lt hc, (Host.Outcome.next.inj h).symm⟩)))
  · exact .inl hr

/-- Three bytes are always enough: the decoder's only error on a fetch is an unknown opcode. -/
theorem decode_three_error (a b c : Byte) (e : DecodeError) (h : decode [a, b, c] = .error e) : e = .unknownOpcode a := by
  simp only [decode, decodeOpcode] at h
  split at h <;> simp [takeNone, takeByte, takeWord] at h
  exact h.symm

/-- The interface's run through a step that answers a next state. -/
theorem core_run_next (M : Host.Core) (k : Nat) (s t : M.State) (h : M.step s = .next t) :
    M.run (k + 1) s = M.run k t := by
  simp only [Host.Core.run, h]

/-- The interface's run stops at a step that faults. -/
theorem core_run_fault (M : Host.Core) (k : Nat) (s : M.State) (r : M.Fault) (h : M.step s = .fault r) :
    M.run (k + 1) s = .fault r := by
  simp only [Host.Core.run, h]

end Sys2Proof.Machine
end

