-- ==== Sys2Proof/Laws/Exec.lean ====
section
/-! SUPPORT. The state each instruction leaves, as one record over the state it starts from (PC past the opcode). Proofs about all
instructions go by cases on the instruction and one of these equations. -/

namespace Sys2Proof.Machine

theorem execState_ldaImm (imm8 : Byte) (s : State) : execState (.ldaImm imm8) s =
    { s with pc := s.pc + 1, a := imm8, flags := s.flags.withZN s.params imm8 } := rfl

theorem execState_ldaZp (zp8 : Byte) (s : State) : execState (.ldaZp zp8) s =
    { s with
      pc := s.pc + 1, a := s.readByte (eaZeroPage zp8)
      flags := s.flags.withZN s.params (s.readByte (eaZeroPage zp8)) } := rfl

theorem execState_ldaZpX (zp8 : Byte) (s : State) : execState (.ldaZpX zp8) s =
    { s with
      pc := s.pc + 1, a := s.readByte (eaZeroPageX s zp8)
      flags := s.flags.withZN s.params (s.readByte (eaZeroPageX s zp8)) } := rfl

theorem execState_ldaAbs (abs16 : Addr) (s : State) : execState (.ldaAbs abs16) s =
    { s with
      pc := s.pc + 2, a := s.readByte abs16
      flags := s.flags.withZN s.params (s.readByte abs16) } := rfl

theorem execState_staZp (zp8 : Byte) (s : State) : execState (.staZp zp8) s =
    { s with pc := s.pc + 1, mem := (s.writeByte (eaZeroPage zp8) s.a).mem } := rfl

theorem execState_staAbs (abs16 : Addr) (s : State) : execState (.staAbs abs16) s =
    { s with pc := s.pc + 2, mem := (s.writeByte (eaAbsolute abs16) s.a).mem } := rfl

theorem execState_jsr (abs16 : Addr) (s : State) : execState (.jsr abs16) s =
    { s with pc := abs16, sp := s.sp - 1 - 1, mem := (s.push16 (s.pc + 2 - 1)).mem } := rfl

theorem execState_rts (s : State) : execState .rts s =
    { s with pc := s.pop16.1 + 1, sp := s.sp + 1 + 1 } := rfl

theorem execState_jmpAbs (abs16 : Addr) (s : State) : execState (.jmpAbs abs16) s = { s with pc := abs16 } := rfl

theorem execState_jmpInd (abs16 : Addr) (s : State) : execState (.jmpInd abs16) s =
    { s with pc := s.readWord abs16 } := rfl

theorem execState_pha (s : State) : execState .pha s = { s with sp := s.sp - 1, mem := (s.push8 s.a).mem } := rfl

theorem execState_php (s : State) : execState .php s =
    { s with sp := s.sp - 1, mem := (s.push8 s.flags.pack).mem } := rfl

theorem execState_pla (s : State) : execState .pla s =
    { s with sp := s.sp + 1, a := s.pop8.1, flags := s.flags.withZN s.params s.pop8.1 } := rfl

theorem execState_plp (s : State) : execState .plp s =
    { s with sp := s.sp + 1, flags := unpackFlags s.pop8.1 } := rfl

theorem execState_tsx (s : State) : execState .tsx s =
    { s with x := s.sp, flags := s.flags.withZN s.params s.sp } := rfl

theorem execState_txs (s : State) : execState .txs s = { s with sp := s.x } := rfl

theorem execState_txa (s : State) : execState .txa s =
    { s with a := s.x, flags := s.flags.withZN s.params s.x } := rfl

theorem execState_andImm (imm8 : Byte) (s : State) : execState (.andImm imm8) s =
    { s with pc := s.pc + 1, a := s.a &&& imm8, flags := s.flags.withZN s.params (s.a &&& imm8) } := rfl

theorem execState_bitZp (zp8 : Byte) (s : State) : execState (.bitZp zp8) s =
    { s with pc := s.pc + 1, flags := s.flags.withBitTest s.a (s.readByte (eaZeroPage zp8)) } := rfl

theorem execState_incZpX (zp8 : Byte) (s : State) : execState (.incZpX zp8) s =
    { s with
      pc := s.pc + 1
      mem := (s.writeByte (eaZeroPageX s zp8) (s.readByte (eaZeroPageX s zp8) + 1)).mem
      flags := if s.params.incUpdatesZN then s.flags.withZN s.params (s.readByte (eaZeroPageX s zp8) + 1)
        else s.flags } := by
  show (s.advancePc 1).incrementByte (eaZeroPageX s zp8) = _
  (apply State.ext <;> simp); rfl

theorem execState_incAbsX (abs16 : Addr) (s : State) : execState (.incAbsX abs16) s =
    { s with
      pc := s.pc + 2
      mem := (s.writeByte (eaAbsoluteX s abs16) (s.readByte (eaAbsoluteX s abs16) + 1)).mem
      flags := if s.params.incUpdatesZN then s.flags.withZN s.params (s.readByte (eaAbsoluteX s abs16) + 1)
        else s.flags } := by
  show (s.advancePc 2).incrementByte (eaAbsoluteX s abs16) = _
  (apply State.ext <;> simp); rfl

theorem execState_beq (off : Int) (s : State) : execState (.beq off) s =
    { s with pc := if s.flags.z then branchTarget (s.pc + 1) off else s.pc + 1 } := by
  show (if (s.advancePc 1).flags.z then { s.advancePc 1 with pc := branchTarget (s.advancePc 1).pc off }
    else s.advancePc 1) = _
  (cases h : s.flags.z <;> simp [h]); rfl

theorem execState_nop (s : State) : execState .nop s = s := rfl

theorem execState_brk (s : State) : execState .brk s =
    { s with
      sp := s.sp - 1 - 1 - 1
      mem := ((s.push16 (s.pc - 1)).push8 s.flags.pack).mem
      pc := ((s.push16 (s.pc - 1)).push8 s.flags.pack).readWord s.params.irqVector
      flags := s.flags.withBreak } := by
  show s.enterInterrupt (s.pc - 1) = _
  rw [State.enterInterrupt_eq]
  apply State.ext <;> simp [Flags.withBreak]

theorem execState_rti (s : State) : execState .rti s =
    { s with
      sp := s.sp + 1 + 1 + 1
      flags := unpackFlags s.pop8.1
      pc := s.pop8.2.pop16.1 + 1 } := rfl

/-- Every instruction keeps the memory's canonical form. -/
theorem execState_wf (i : Instr) (s : State) (h : Memory.wf s.mem = true) : Memory.wf (execState i s).mem = true := by
  cases i
  case staZp => exact s.wf_writeByte _ _ h
  case staAbs => exact s.wf_writeByte _ _ h
  case jsr => exact s.wf_push16 _ h
  case pha => exact s.wf_push8 _ h
  case php => exact s.wf_push8 _ h
  case incZpX => rw [execState_incZpX]; exact s.wf_writeByte _ _ h
  case incAbsX => rw [execState_incAbsX]; exact s.wf_writeByte _ _ h
  case beq => rw [execState_beq]; exact h
  case brk => rw [execState_brk]; exact State.wf_push8 _ _ (s.wf_push16 _ h)
  all_goals exact h

end Sys2Proof.Machine
end

