-- ==== Sys2Proof/Laws/HostPort.lean ====
section
/-! SUPPORT. The host control port and the fetch, said once: when a host action answers, and which bytes the fetch sees. -/

namespace Sys2Proof.Machine

/-- A host action outside RUNNING answers as written. -/
theorem whenStopped_of_ne {α : Type} {s : State} (h : s.runState ≠ .running) (o : Host.Outcome α Fault Refusal) :
    whenStopped s o = o := by
  unfold whenStopped
  split <;> simp_all

/-- A host action that answers a value was made outside RUNNING. -/
theorem whenStopped_next {α : Type} {s : State} {o : Host.Outcome α Fault Refusal} {v : α}
    (h : whenStopped s o = .next v) : s.runState ≠ .running ∧ o = .next v := by
  unfold whenStopped at h
  split at h
  · cases h
  all_goals
    next hr => exact ⟨by simp [hr], h⟩

/-- A memory access by number that answers a value was made at an address of the memory. -/
theorem withHostAddress_next {α : Type} {addr : Nat} {f : Addr → Host.Outcome α Fault Refusal} {v : α}
    (h : withHostAddress addr f = .next v) : addr < Config.memorySize ∧ f (BitVec.ofNat 16 addr) = .next v := by
  unfold withHostAddress at h
  split at h
  · next ha => exact ⟨ha, h⟩
  · cases h

/-- From IDLE or HALTED after a reset, execute is the call. -/
theorem hostExecute_of_ready {s : State} (h : s.ready = true) (b : Nat) : hostExecute s b = runCall s b := by
  simp only [State.ready, Bool.and_eq_true, decide_eq_true_eq] at h
  rcases h with ⟨h | h, hd⟩ <;> simp [hostExecute, whenStopped, h, hd]

/-- The loop stops where the core leaves RUNNING. -/
theorem callLoop_of_ne (n : Nat) {s : State} (h : s.runState ≠ .running) : callLoop n s = .next s := by
  cases n with
  | zero => rfl
  | succ n => cases hr : s.runState <;> simp_all [callLoop]

/-- The loop, one step unrolled. -/
theorem callLoop_succ (n : Nat) {s t : State} (hr : s.runState = .running) (h : step s = .next t) :
    callLoop (n + 1) s = callLoop n t := by
  simp only [callLoop, hr, h]

/-- A live core's step always answers a next state. -/
theorem step_next_of_live (s : State) (h : s.live = true) : ∃ t, step s = .next t := by
  rw [step_live s h]
  split
  · exact ⟨_, rfl⟩
  · split
    · exact ⟨_, rfl⟩
    · rw [runInstr_eq]
      split <;> exact ⟨_, rfl⟩

/-- What the fetch sees of one byte that stands at PC. -/
theorem fetchBytes_of_holds_one {s : State} {a : Byte} (h : s.holds s.pc [a] = true) :
    s.fetchBytes = [a, s.readByte (s.pc + 1), s.readByte (s.pc + 2)] := by
  simp only [State.holds, Bool.and_true, decide_eq_true_eq] at h
  simp only [State.fetchBytes, h]

/-- What the fetch sees of two bytes that stand at PC. -/
theorem fetchBytes_of_holds_two {s : State} {a b : Byte} (h : s.holds s.pc [a, b] = true) :
    s.fetchBytes = [a, b, s.readByte (s.pc + 2)] := by
  simp only [State.holds, Bool.and_true, Bool.and_eq_true, decide_eq_true_eq] at h
  simp only [State.fetchBytes, h]

/-- What the fetch sees of three bytes that stand at PC. -/
theorem fetchBytes_of_holds_three {s : State} {a b c : Byte} (h : s.holds s.pc [a, b, c] = true) :
    s.fetchBytes = [a, b, c] := by
  have e : s.pc + 1 + 1 = s.pc + 2 := by bv_omega
  simp only [State.holds, Bool.and_true, Bool.and_eq_true, decide_eq_true_eq, e] at h
  simp only [State.fetchBytes, h]

end Sys2Proof.Machine
end

