-- ==== Sys2Proof/Laws/PerInstr.lean ====
section
/-! SUPPORT. The family Encoding: one lemma per instruction, about the instruction as it is written. -/

/-- The encoding of an instruction is as long as its mode says and starts with its opcode byte (30_encoding.md R56, R57). -/
def Sys2Proof.Laws.Encoding.Statement (i : Sys2Proof.Instr) : Prop :=
  (Sys2Proof.encode i).length = i.mode.length ∧ (Sys2Proof.encode i).head? = some i.opcode

namespace Sys2Proof.Laws.Encoding

theorem ldaImm (b : Byte) : Statement (.ldaImm b) := ⟨rfl, rfl⟩

theorem ldaZp (b : Byte) : Statement (.ldaZp b) := ⟨rfl, rfl⟩

theorem ldaZpX (b : Byte) : Statement (.ldaZpX b) := ⟨rfl, rfl⟩

theorem ldaAbs (w : Addr) : Statement (.ldaAbs w) := ⟨rfl, rfl⟩

theorem staZp (b : Byte) : Statement (.staZp b) := ⟨rfl, rfl⟩

theorem staAbs (w : Addr) : Statement (.staAbs w) := ⟨rfl, rfl⟩

theorem jsr (w : Addr) : Statement (.jsr w) := ⟨rfl, rfl⟩

theorem rts : Statement .rts := ⟨rfl, rfl⟩

theorem jmpAbs (w : Addr) : Statement (.jmpAbs w) := ⟨rfl, rfl⟩

theorem jmpInd (w : Addr) : Statement (.jmpInd w) := ⟨rfl, rfl⟩

theorem pha : Statement .pha := ⟨rfl, rfl⟩

theorem php : Statement .php := ⟨rfl, rfl⟩

theorem pla : Statement .pla := ⟨rfl, rfl⟩

theorem plp : Statement .plp := ⟨rfl, rfl⟩

theorem tsx : Statement .tsx := ⟨rfl, rfl⟩

theorem txs : Statement .txs := ⟨rfl, rfl⟩

theorem txa : Statement .txa := ⟨rfl, rfl⟩

theorem andImm (b : Byte) : Statement (.andImm b) := ⟨rfl, rfl⟩

theorem bitZp (b : Byte) : Statement (.bitZp b) := ⟨rfl, rfl⟩

theorem incZpX (b : Byte) : Statement (.incZpX b) := ⟨rfl, rfl⟩

theorem incAbsX (w : Addr) : Statement (.incAbsX w) := ⟨rfl, rfl⟩

theorem beq (off : Int) : Statement (.beq off) := ⟨rfl, rfl⟩

theorem nop : Statement .nop := ⟨rfl, rfl⟩

theorem brk : Statement .brk := ⟨rfl, rfl⟩

theorem rti : Statement .rti := ⟨rfl, rfl⟩

end Sys2Proof.Laws.Encoding
end

