-- ==== Sys2Proof/Tests/Slice0.lean ====
section
/-! SUPPORT. The model's own tests and the witnesses of the statements. Every expected value is a vector of spec/95_test_vectors.md,
named in its comment (V<n>, W<n>, P<n>), or is computed by hand from the rule named. -/

namespace Sys2Proof.Tests

open Sys2Proof Sys2Proof.Machine

/-- The state after reset, `code` placed at `pc`, inside a call of budget `b`. -/
def startAt (pc : Addr) (code : List Byte) (b : Nat) : State :=
  ({ State.reset with pc := pc }.writeBytes pc code).beginCall b

/-- The same at 0x0200. -/
def start (code : List Byte) (b : Nat) : State := startAt 0x0200 code b

/-- One more byte of memory. -/
def State.withByte (s : State) (a : Addr) (v : Byte) : State := s.writeByte a v

/-- The flags as a packed byte. -/
def State.withP (s : State) (p : Byte) : State := { s with flags := unpackFlags p }

/-- The step answers a next state with the property. -/
def after (s : State) (p : State → Bool) : Bool :=
  match step s with
  | .next t => p t
  | .fault _ => false
  | .refused _ => false

/-- An outcome is a next state. -/
def isNext {α : Type} : Host.Outcome α Fault Refusal → Bool
  | .next _ => true
  | .fault _ => false
  | .refused _ => false

/-- The state of an outcome. -/
def nextOf : Host.Outcome State Fault Refusal → State
  | .next t => t
  | .fault _ => State.reset
  | .refused _ => State.reset

/-- A call ends with this result and this property of the state. -/
def called (s : State) (b : Nat) (r : Nat × Nat × Nat × Nat) (p : State → Bool) : Bool :=
  match hostExecute s b with
  | .next (t, q) => decide (q.codes = r) && p t
  | .fault _ => false
  | .refused _ => false

/-- The hypotheses of an instruction's statement: a live core, the bytes at PC, and the cycles. -/
def meets (s : State) (code : List Byte) (cycles : Nat) : Bool := s.live && s.holds s.pc code && decide (cycles ≤ s.budget)

/-! ### WellFormed: its one check refuses a displacement outside a byte -/

theorem test_wellFormed_refuses_128 : (Instr.beq 128).wellFormed = false := by decide

theorem test_wellFormed_refuses_minus_129 : (Instr.beq (-129)).wellFormed = false := by decide

/-- Also the witness of BranchIfZeroAndNoOperation's clause on displacements. -/
theorem test_wellFormed_keeps_the_ends : (Instr.beq 127).wellFormed = true ∧ (Instr.beq (-128)).wellFormed = true := by decide

/-! ### Decoding, each word written out from 30_encoding.md R57 and R59 -/

theorem test_decode_ldaImm : decode [0b10101001, 0x69] = .ok (.ldaImm 0x69, []) := by decide

theorem test_decode_ldaZp : decode [0b10100101, 0x42] = .ok (.ldaZp 0x42, []) := by decide

theorem test_decode_ldaZpX : decode [0b10110101, 0x42] = .ok (.ldaZpX 0x42, []) := by decide

theorem test_decode_ldaAbs : decode [0b10101101, 0x80, 0x44] = .ok (.ldaAbs 0x4480, []) := by decide

theorem test_decode_staZp : decode [0b10000101, 0x10] = .ok (.staZp 0x10, []) := by decide

theorem test_decode_staAbs : decode [0b10001101, 0x01, 0x02] = .ok (.staAbs 0x0201, []) := by decide

theorem test_decode_jsr : decode [0b00100000, 0x34, 0x12] = .ok (.jsr 0x1234, []) := by decide

theorem test_decode_rts : decode [0b01100000] = .ok (.rts, []) := by decide

theorem test_decode_jmpAbs : decode [0b01001100, 0x00, 0x02] = .ok (.jmpAbs 0x0200, []) := by decide

theorem test_decode_jmpInd : decode [0b01101100, 0x00, 0x06] = .ok (.jmpInd 0x0600, []) := by decide

theorem test_decode_pha : decode [0b01001000] = .ok (.pha, []) := by decide

theorem test_decode_php : decode [0b00001000] = .ok (.php, []) := by decide

theorem test_decode_pla : decode [0b01101000] = .ok (.pla, []) := by decide

theorem test_decode_plp : decode [0b00101000] = .ok (.plp, []) := by decide

theorem test_decode_tsx : decode [0b10111010] = .ok (.tsx, []) := by decide

theorem test_decode_txs : decode [0b10011010] = .ok (.txs, []) := by decide

theorem test_decode_txa : decode [0b10001010] = .ok (.txa, []) := by decide

theorem test_decode_andImm : decode [0b00101001, 0x02] = .ok (.andImm 0x02, []) := by decide

theorem test_decode_bitZp : decode [0b00100100, 0x20] = .ok (.bitZp 0x20, []) := by decide

theorem test_decode_incZpX : decode [0b11110110, 0x10] = .ok (.incZpX 0x10, []) := by decide

theorem test_decode_incAbsX : decode [0b11111110, 0xE5, 0x03] = .ok (.incAbsX 0x03E5, []) := by decide

theorem test_decode_beq : decode [0b11110000, 0xFE] = .ok (.beq (-2), []) := by decide

theorem test_decode_nop : decode [0b11101010] = .ok (.nop, []) := by decide

theorem test_decode_brk : decode [0b00000000] = .ok (.brk, []) := by decide

theorem test_decode_rti : decode [0b01000000] = .ok (.rti, []) := by decide

/-- 30_encoding.md R62: 0x02 is unassigned. -/
theorem test_decode_unassigned : decode [0x02, 0xA9, 0x69] = .error (.unknownOpcode 0x02) := by decide

theorem test_decode_empty : decode [] = .error .noOpcode := by decide

theorem test_decode_missing_operand : decode [0xAD, 0x34] = .error .noOperand := by decide

/-- The table's words, with operand bytes of zero. -/
theorem test_decodeTableWord :
    decodeTableWord 24 0xAD = some (.ldaAbs 0) ∧ decodeTableWord 8 0xF0 = some (.beq 0) ∧
    decodeTableWord 16 0x69A9 = some (.ldaImm 0x69) ∧ decodeTableWord 8 0x69A9 = some (.ldaImm 0) ∧
    decodeTableWord 24 0x02018D = some (.staAbs 0x0201) ∧ decodeTableWord 8 0x02 = none := by decide

/-- The placed instruction is the one the next step runs. -/
theorem test_withFetchWord :
    after (State.reset.withFetchWord 16 0x69A9) (fun t => decide (t.a = 0x69 ∧ t.pc = 0xFFFE ∧ t.budget = 5)) = true := by
  decide

/-! ### One step of each instruction: its hypotheses are met, and the vector's end state -/

/-- V19. -/
def start_ldaImm : State := State.withP (start [0xA9, 0x80] 2) 0x41

theorem witness_ldaImm : meets start_ldaImm [0xA9, 0x80] 2 = true := by decide

theorem test_ldaImm :
    after start_ldaImm (fun t => decide (t.a = 0x80 ∧ t.flags.pack = 0xC1 ∧ t.pc = 0x0202 ∧ t.budget = 0)) = true := by
  decide

/-- V22. -/
def start_ldaZp : State := State.withByte (start [0xA5, 0x10] 3) 0x0010 0x99

theorem witness_ldaZp : meets start_ldaZp [0xA5, 0x10] 3 = true := by decide

theorem test_ldaZp :
    after start_ldaZp (fun t => decide (t.a = 0x99 ∧ t.flags.pack = 0x80 ∧ t.pc = 0x0202 ∧ t.budget = 0)) = true := by
  decide

/-- V23: the index wraps in the zero page. -/
def start_ldaZpX : State := { State.withByte (State.withByte (start [0xB5, 0xFF] 4) 0x0001 0x55) 0x0101 0x66 with x := 0x02 }

theorem witness_ldaZpX : meets start_ldaZpX [0xB5, 0xFF] 4 = true := by decide

theorem test_ldaZpX :
    after start_ldaZpX (fun t => decide (t.a = 0x55 ∧ t.flags.pack = 0x00 ∧ t.pc = 0x0202 ∧ t.budget = 0)) = true := by
  decide

/-- V25: the operand fetch wraps. -/
def start_ldaAbs : State := State.withByte (startAt 0xFFFE [0xAD, 0x34, 0x12] 4) 0x1234 0xC3

theorem witness_ldaAbs : meets start_ldaAbs [0xAD, 0x34, 0x12] 4 = true := by decide

theorem test_ldaAbs :
    after start_ldaAbs (fun t => decide (t.a = 0xC3 ∧ t.flags.n = true ∧ t.pc = 0x0001 ∧ t.budget = 0)) = true := by
  decide

/-- V26: no flag is written. -/
def start_staZp : State := State.withP (start [0x85, 0x10] 3) 0x80

theorem witness_staZp : meets start_staZp [0x85, 0x10] 3 = true := by decide

theorem test_staZp :
    after start_staZp (fun t => decide (t.readByte 0x0010 = 0x00 ∧ t.flags.pack = 0x80 ∧ t.pc = 0x0202 ∧ t.budget = 0)) = true := by
  decide

/-- V28: a store into its own operand byte. -/
def start_staAbs : State := { start [0x8D, 0x01, 0x02] 4 with a := 0xEA }

theorem witness_staAbs : meets start_staAbs [0x8D, 0x01, 0x02] 4 = true := by decide

theorem test_staAbs :
    after start_staAbs (fun t => decide (t.readByte 0x0201 = 0xEA ∧ t.pc = 0x0203 ∧ t.budget = 0)) = true := by
  decide

/-- V30: SP wraps. -/
def start_jsr : State := { start [0x20, 0x34, 0x12] 6 with sp := 0x00 }

theorem witness_jsr : meets start_jsr [0x20, 0x34, 0x12] 6 = true := by decide

theorem test_jsr :
    after start_jsr (fun t => decide (t.pc = 0x1234 ∧ t.readByte 0x0100 = 0x02 ∧ t.readByte 0x01FF = 0x02 ∧ t.sp = 0xFE ∧ t.budget = 0)) = true := by
  decide

/-- V33: SP wraps. -/
def start_rts : State := { State.withByte (State.withByte (start [0x60] 6) 0x01FF 0x33) 0x0100 0x12 with sp := 0xFE }

theorem witness_rts : meets start_rts [0x60] 6 = true := by decide

theorem test_rts :
    after start_rts (fun t => decide (t.pc = 0x1234 ∧ t.sp = 0x00 ∧ t.budget = 0)) = true := by
  decide

/-- 42_jump_subroutine.md R96, example. -/
def start_jmpAbs : State := start [0x4C, 0x00, 0x03] 3

theorem witness_jmpAbs : meets start_jmpAbs [0x4C, 0x00, 0x03] 3 = true := by decide

theorem test_jmpAbs :
    after start_jmpAbs (fun t => decide (t.pc = 0x0300 ∧ t.budget = 0)) = true := by
  decide

/-- V36: the high byte comes from the next page. -/
def start_jmpInd : State := State.withByte (State.withByte (State.withByte (start [0x6C, 0xFF, 0x10] 5) 0x10FF 0x34) 0x1100 0x12) 0x1000 0x99

theorem witness_jmpInd : meets start_jmpInd [0x6C, 0xFF, 0x10] 5 = true := by decide

theorem test_jmpInd :
    after start_jmpInd (fun t => decide (t.pc = 0x1234 ∧ t.budget = 0)) = true := by
  decide

/-- V39: SP wraps. -/
def start_pha : State := { start [0x48] 3 with a := 0x77, sp := 0x00 }

theorem witness_pha : meets start_pha [0x48] 3 = true := by decide

theorem test_pha :
    after start_pha (fun t => decide (t.readByte 0x0100 = 0x77 ∧ t.sp = 0xFF ∧ t.pc = 0x0201 ∧ t.budget = 0)) = true := by
  decide

/-- V40: B and U are pushed as stored. -/
def start_php : State := State.withP (start [0x08] 3) 0xC3

theorem witness_php : meets start_php [0x08] 3 = true := by decide

theorem test_php :
    after start_php (fun t => decide (t.readByte 0x01FF = 0xC3 ∧ t.sp = 0xFE ∧ t.flags.pack = 0xC3 ∧ t.budget = 0)) = true := by
  decide

/-- V42: SP wraps. -/
def start_pla : State := State.withByte (start [0x68] 4) 0x0100 0xC0

theorem witness_pla : meets start_pla [0x68] 4 = true := by decide

theorem test_pla :
    after start_pla (fun t => decide (t.a = 0xC0 ∧ t.flags.n = true ∧ t.flags.z = false ∧ t.sp = 0x00 ∧ t.budget = 0)) = true := by
  decide

/-- V44. -/
def start_plp : State := { State.withByte (start [0x28] 4) 0x01FF 0xFF with sp := 0xFE }

theorem witness_plp : meets start_plp [0x28] 4 = true := by decide

theorem test_plp :
    after start_plp (fun t => decide (t.flags.pack = 0xFF ∧ t.sp = 0xFF ∧ t.budget = 0)) = true := by
  decide

/-- V46. -/
def start_tsx : State := { start [0xBA] 2 with sp := 0x80 }

theorem witness_tsx : meets start_tsx [0xBA] 2 = true := by decide

theorem test_tsx :
    after start_tsx (fun t => decide (t.x = 0x80 ∧ t.flags.n = true ∧ t.flags.z = false ∧ t.sp = 0x80 ∧ t.budget = 0)) = true := by
  decide

/-- V48: no flag is written. -/
def start_txs : State := State.withP (start [0x9A] 2) 0x80

theorem witness_txs : meets start_txs [0x9A] 2 = true := by decide

theorem test_txs :
    after start_txs (fun t => decide (t.sp = 0x00 ∧ t.flags.pack = 0x80 ∧ t.budget = 0)) = true := by
  decide

/-- V49. -/
def start_txa : State := { start [0x8A] 2 with x := 0xFF, a := 0x12 }

theorem witness_txa : meets start_txa [0x8A] 2 = true := by decide

theorem test_txa :
    after start_txa (fun t => decide (t.a = 0xFF ∧ t.flags.n = true ∧ t.flags.z = false ∧ t.x = 0xFF ∧ t.budget = 0)) = true := by
  decide

/-- V52. -/
def start_andImm : State := { State.withP (start [0x29, 0x80] 2) 0x01 with a := 0xFF }

theorem witness_andImm : meets start_andImm [0x29, 0x80] 2 = true := by decide

theorem test_andImm :
    after start_andImm (fun t => decide (t.a = 0x80 ∧ t.flags.pack = 0x81 ∧ t.budget = 0)) = true := by
  decide

/-- V53: N and V come from the memory byte. -/
def start_bitZp : State := { State.withByte (start [0x24, 0x10] 3) 0x0010 0xC0 with a := 0x01 }

theorem witness_bitZp : meets start_bitZp [0x24, 0x10] 3 = true := by decide

theorem test_bitZp :
    after start_bitZp (fun t => decide (t.a = 0x01 ∧ t.flags.pack = 0xC2 ∧ t.budget = 0)) = true := by
  decide

/-- V57: the index wraps in the zero page. -/
def start_incZpX : State := { State.withByte (start [0xF6, 0xF0] 6) 0x0010 0x7F with x := 0x20 }

theorem witness_incZpX : meets start_incZpX [0xF6, 0xF0] 6 = true := by decide

theorem test_incZpX :
    after start_incZpX (fun t => decide (t.readByte 0x0010 = 0x80 ∧ t.readByte 0x0110 = 0x00 ∧ t.flags.pack = 0x80 ∧ t.budget = 0)) = true := by
  decide

/-- V58: the address wraps. -/
def start_incAbsX : State := { State.withP (State.withByte (start [0xFE, 0xFF, 0xFF] 7) 0x0001 0x41) 0x02 with x := 0x02 }

theorem witness_incAbsX : meets start_incAbsX [0xFE, 0xFF, 0xFF] 7 = true := by decide

theorem test_incAbsX :
    after start_incAbsX (fun t => decide (t.readByte 0x0001 = 0x42 ∧ t.flags.pack = 0x00 ∧ t.budget = 0)) = true := by
  decide

/-- V63: backwards across a page, 3 cycles. -/
def start_beq : State := State.withP (startAt 0x0300 [0xF0, 0x80] 3) 0x02

theorem witness_beq : meets start_beq [0xF0, 0x80] 3 = true := by decide

/-- V63, and V60: a branch not taken. -/
theorem test_beq :
    after start_beq (fun t => decide (t.pc = 0x0282 ∧ t.budget = 0)) = true ∧
      after (start [0xF0, 0x05] 2) (fun t => decide (t.pc = 0x0202 ∧ t.budget = 0)) = true := by
  decide

/-- V70. -/
def start_nop : State := State.withP (start [0xEA] 2) 0xA5

theorem witness_nop : meets start_nop [0xEA] 2 = true := by decide

theorem test_nop :
    after start_nop (fun t => decide (t.pc = 0x0201 ∧ t.flags.pack = 0xA5 ∧ t.budget = 0)) = true := by
  decide

/-- V71. -/
def start_brk : State := State.withP (State.withByte (start [0x00] 7) 0xFFFF 0x30) 0x03

theorem witness_brk : meets start_brk [0x00] 7 = true := by decide

theorem test_brk :
    after start_brk (fun t => decide (t.readByte 0x01FF = 0x02 ∧ t.readByte 0x01FE = 0x00 ∧ t.readByte 0x01FD = 0x03 ∧ t.sp = 0xFC ∧ t.pc = 0x3000 ∧
      t.flags.pack = 0x17 ∧ t.budget = 0)) = true := by
  decide

/-- V74: the resumed address wraps. -/
def start_rti : State := { (start [0x40] 6).writeBytes 0x01FD [0xFF, 0xFF, 0xFF] with sp := 0xFC }

theorem witness_rti : meets start_rti [0x40] 6 = true := by decide

theorem test_rti :
    after start_rti (fun t => decide (t.flags.pack = 0xFF ∧ t.pc = 0x0000 ∧ t.sp = 0xFF ∧ t.budget = 0)) = true := by
  decide

/-! ### The engine, the call and the host port -/

/-- V67: next and target are in one page, so no extra cycle; V66: they are in two. -/
theorem test_page_change_cost :
    cost (.beq 0) (State.withP (startAt 0x02FE [0xF0, 0x00] 2) 0x02) = 2 ∧
      cost (.beq 1) (State.withP (startAt 0x02FD [0xF0, 0x01] 3) 0x02) = 3 := by
  decide

/-- V20: N from bit 6 when NEGATIVE_BIT is 6. -/
theorem test_negative_bit_six :
    after { start [0xA9, 0x40] 2 with params := { Params.default with negativeBit := .bit6 } }
      (fun t => decide (t.flags.pack = 0x80)) = true := by
  decide

/-- V56: INC writes no flag when INC_UPDATES_ZN is false. -/
theorem test_inc_without_flags :
    after { State.withByte (start [0xF6, 0x10] 6) 0x0010 0xFF with params := { Params.default with incUpdatesZN := false } }
      (fun t => decide (t.readByte 0x0010 = 0x00 ∧ t.flags.pack = 0x00)) = true := by
  decide

/-- V7: an empty budget halts with nothing else changed. -/
theorem test_execute_zero : called State.reset 0 (2, 1, 0, 0) (fun t => decide (t.pc = 0xFFFC)) = true := by decide

/-- V8. -/
theorem test_execute_before_reset :
    called (State.constructed Params.default) 5 (3, 0, 2, 0) (fun t => decide (t.runState = .faulted)) = true := by decide

/-- V10: the budget is short, the instruction does not start. -/
theorem test_short_budget :
    called (State.reset.writeBytes 0xFFFC [0xA9, 0x69]) 1 (3, 0, 1, 1) (fun t => decide (t.a = 0x00 ∧ t.pc = 0xFFFC)) = true := by
  decide

/-- W10: an unknown opcode. -/
theorem test_unknown_opcode :
    called (State.reset.writeByte 0xFFFC 0x02) 10 (2, 2, 0, 9) (fun t => decide (t.pc = 0xFFFC)) = true := by decide

/-- W6, Scenario 1. -/
theorem test_scenario_one :
    called (State.reset.writeBytes 0xFFFC [0xA9, 0x69]) 2 (2, 1, 0, 0) (fun t => decide (t.a = 0x69 ∧ t.pc = 0xFFFE)) = true := by
  decide

/-- P4: BRK in zeroed memory. -/
theorem test_brk_in_zeroed_memory :
    called State.reset 7 (2, 1, 0, 0)
      (fun t => decide (t.readByte 0x01FF = 0xFF ∧ t.readByte 0x01FE = 0xFC ∧ t.sp = 0xFC ∧ t.pc = 0x0000)) = true := by
  decide

/-- Equal memories are equal data: a byte written and cleared again leaves no cell. -/
theorem test_canonical_memory :
    ((State.reset.writeByte 0x0300 0x05).writeByte 0x0010 0x07).mem = [(0x0010, 0x07), (0x0300, 0x05)] ∧
    ((State.reset.writeByte 0x0300 0x05).writeByte 0x0300 0x00).mem = [] := by
  decide

/-! ### Witnesses of the statements' hypotheses -/

theorem witness_decodeUndoesEncode :
    (Instr.beq (-128)).wellFormed = true ∧ (Instr.beq 127).wellFormed = true ∧ (Instr.jsr 0xFFFF).wellFormed = true := by decide

theorem witness_encodeUndoesDecode : decode [0xF0, 0x80, 0xEA] = .ok (.beq (-128), [0xEA]) := by decide

theorem witness_opcodeFixesModeAndLength :
    (Instr.ldaZp 0x00).opcode = (Instr.ldaZp 0xFF).opcode ∧ decode (0xAD :: [0x34, 0x12, 0x00]) = .ok (.ldaAbs 0x1234, [0x00]) := by
  decide

theorem witness_unassignedBytesAreUnknown : (0xFE : Byte) ∈ [(0xF6 : Byte), 0xFE] ∧ (0xFF : Byte) ∉ [(0xF6 : Byte), 0xFE] := by
  decide

/-- LDA #imm8 at the exact cost: what the statement of the step asks for. -/
theorem witness_stepRunsDecodedInstruction :
    let s := start [0xA9, 0x80] 2
    s.live = true ∧ s.budget ≠ 0 ∧ decode s.fetchBytes = .ok (.ldaImm 0x80, [0x00]) ∧ cost (.ldaImm 0x80) s ≤ s.budget ∧
      isNext (exec (.ldaImm 0x80) { s with pc := s.pc + 1 }) = true := by
  decide

theorem witness_emptyBudgetHaltsCleanly :
    (start [0x02] 0).live = true ∧ (start [0x02] 0).budget = 0 ∧ State.reset.ready = true ∧
      isNext (core.run 1 ((State.reset.writeBytes 0xFFFC [0xA9, 0x69]).beginCall 2)) = true ∧
      (nextOf (core.run 1 ((State.reset.writeBytes 0xFFFC [0xA9, 0x69]).beginCall 2))).runState = .running ∧
      (nextOf (core.run 1 ((State.reset.writeBytes 0xFFFC [0xA9, 0x69]).beginCall 2))).budget = 0 := by
  decide

theorem witness_unknownOpcodeHaltsCleanly :
    (start [0x02] 1).live = true ∧ (start [0x02] 1).budget ≠ 0 ∧
      decode (start [0x02] 1).fetchBytes = .error (.unknownOpcode 0x02) := by
  decide

theorem witness_unknownOpcodeHaltsEveryCall :
    let s := State.reset.writeByte 0xFFFC 0xFF
    s.ready = true ∧ decode s.fetchBytes = .error (.unknownOpcode 0xFF) := by
  decide

theorem witness_shortBudgetDoesNotStart :
    let s := start [0xFE, 0x00, 0x10] 6
    s.live = true ∧ s.budget ≠ 0 ∧ decode s.fetchBytes = .ok (.incAbsX 0x1000, []) ∧ s.budget < cost (.incAbsX 0x1000) s := by
  decide

theorem witness_cycleCostsAreTheTables : decode (start [0xF0, 0xFE] 2).fetchBytes = .ok (.beq (-2), [0x00]) := by decide

theorem witness_everyCallEnds : State.reset.ready = true ∧ (State.reset.halt .budgetExhausted).ready = true := by decide

/-- A step that stays in the call, and one that ends it. -/
theorem witness_budgetNeverIncreases :
    isNext (step (start [0xEA] 5)) = true ∧ (nextOf (step (start [0xEA] 5))).runState = .running ∧
      isNext (step (start [0xEA] 0)) = true := by
  decide

theorem witness_faultedIsSticky :
    (State.reset.raiseFault .cycleUnderflow).runState = .faulted ∧ State.reset.runState = .idle ∧
      (State.reset.halt .unknownOpcode).runState = .halted := by
  decide

theorem witness_executeBeforeResetFaults :
    (State.constructed Params.default).runState = .idle ∧ (State.constructed Params.default).resetDone = false ∧
      ((State.constructed Params.default).halt .budgetExhausted).runState = .halted := by
  decide

theorem witness_hostIsLockedOutWhileRunning : (start [0xEA] 2).runState = .running := by decide

/-- Both ends of the address range, and the first number past it. -/
theorem witness_hostWritesOneElement :
    State.reset.runState ≠ .running ∧ State.reset.resetDone = true ∧ (0 : Nat) < 65536 ∧ (65535 : Nat) < 65536 ∧
      (65536 : Nat) ≤ 65536 := by
  decide

theorem witness_readsBeforeResetFault :
    (State.constructed Params.default).runState ≠ .running ∧ (State.constructed Params.default).resetDone = false := by
  decide

theorem witness_resetGivesEveryElement : (State.reset.raiseFault .cycleUnderflow).runState ≠ .running := by decide

theorem witness_resetZeroFillsMemory : isNext (hostReset (State.reset.writeByte 0x1234 0x56)) = true := by decide

theorem witness_sharedUpdate :
    State.reset.params.negativeBit = .bit7 ∧
      ({ State.reset with params := { Params.default with negativeBit := .bit6 } } : State).params.negativeBit = .bit6 := by
  decide

/-- W3: JSR $0300 at 0x0200, RTS at 0x0300. -/
theorem witness_returnUndoesCall :
    let s := State.withByte (start [0x20, 0x00, 0x03] 12) 0x0300 0x60
    s.live = true ∧ s.holds s.pc [0x20, 0x00, 0x03] = true ∧ 12 ≤ s.budget ∧ isNext (step s) = true ∧
      (nextOf (step s)).readByte (joinBytes 0x03 0x00) = 0x60 := by
  decide

/-- W4: PHA, PLA; and PHP, PLP. -/
theorem witness_pullUndoesPush :
    (let s := { start [0x48, 0x68] 7 with a := 0x80 }
     s.live = true ∧ 7 ≤ s.budget ∧ isNext (step s) = true ∧ s.readByte s.pc = 0x48 ∧
      (nextOf (step s)).readByte (s.pc + 1) = 0x68) ∧
    (let s := State.withP (start [0x08, 0x28] 7) 0xA5
     s.live = true ∧ 7 ≤ s.budget ∧ isNext (step s) = true ∧ s.readByte s.pc = 0x08 ∧
      (nextOf (step s)).readByte (s.pc + 1) = 0x28) := by
  decide

/-- V73: BRK whose handler is an RTI. -/
theorem witness_interruptReturnUndoesInterrupt :
    let s := State.withByte (State.withByte (start [0x00] 13) 0xFFFF 0x30) 0x3000 0x40
    s.live = true ∧ s.readByte s.pc = 0x00 ∧ 13 ≤ s.budget ∧ isNext (step s) = true ∧
      (nextOf (step s)).readByte (nextOf (step s)).pc = 0x40 := by
  decide

/-- A canonical memory that is not empty, and a step that writes. -/
theorem witness_stepKeepsMemoryCanonical :
    Memory.wf (start [0x85, 0x10] 3).mem = true ∧ isNext (step (start [0x85, 0x10] 3)) = true := by
  decide

theorem witness_stepKeepsControlConsistent :
    (start [0x02] 3).controlOk = true ∧ isNext (step (start [0x02] 3)) = true ∧
      (start [0xA9, 0x69] 1).controlOk = true ∧ isNext (step (start [0xA9, 0x69] 1)) = true := by
  decide

theorem witness_hostActionsKeepTheInvariant :
    State.reset.inv = true ∧ isNext (hostReset State.reset) = true ∧ isNext (hostExecute State.reset 7) = true ∧
      isNext (hostWriteReg State.reset .a 0x07) = true ∧ isNext (hostWritePc State.reset 0x0200) = true ∧
      isNext (hostWriteFlag State.reset .u true) = true ∧ isNext (hostWriteByte State.reset 65535 0x01) = true ∧
      isNext (hostWriteWord State.reset 65535 0x1234) = true := by
  decide

theorem witness_canonicalMemoriesAreEqual : Memory.wf [(0x0010, 0x07), (0xFFFF, 0x05)] = true := by decide

/-- An instruction that writes each register and flag the statements of the writers are about. -/
theorem witness_writers :
    (nextOf (exec (.ldaImm 0x80) State.reset)).a ≠ State.reset.a ∧ (nextOf (exec .tsx State.reset)).x ≠ State.reset.x ∧
      (nextOf (exec .pha State.reset)).sp ≠ State.reset.sp ∧
      (nextOf (exec .brk State.reset)).flags.b ≠ State.reset.flags.b ∧
      (nextOf (exec (.ldaImm 0x80) State.reset)).flags.n ≠ State.reset.flags.n ∧
      (nextOf (exec (.incZpX 0x10) { State.reset with flags := unpackFlags 0x02 })).flags.z ≠ true ∧
      (nextOf (exec (.bitZp 0x10) { State.reset with flags := unpackFlags 0x40 })).flags.v ≠ true ∧
      (nextOf (exec .plp State.reset)).flags.c = (nextOf (exec .plp { State.reset with flags := unpackFlags 0x29 })).flags.c := by
  decide

/-- A store outside the stack page and a push inside it. -/
theorem witness_memoryWriters :
    (nextOf (exec (.staZp 0x10) { State.reset with a := 0x05 })).readByte 0x0010 ≠ State.reset.readByte 0x0010 ∧
      (nextOf (exec .pha { State.reset with a := 0x05 })).readByte 0x01FF ≠ State.reset.readByte 0x01FF := by
  decide

theorem witness_noInstructionReadsY : isNext (step (start [0x60] 6)) = true := by decide

/-- BEQ with another value in C, and LDA with another value in Z. -/
theorem witness_flagReaders :
    (Instr.beq 1).mnemonic ≠ .php ∧ (Instr.beq 1).mnemonic ≠ .brk ∧ (FlagName.c = .z → (Instr.beq 1).mnemonic ≠ .beq) ∧
      (FlagName.z = .z → (Instr.ldaImm 1).mnemonic ≠ .beq) := by
  decide

end Sys2Proof.Tests
end

section
/-! PROOFS. The step, forwards and backwards: one rule per branch of a step, and what every step keeps. -/

namespace Sys2Proof.Machine

/-! ### One rule per branch of the step, the converse of `step_cases` -/

/-- An idle or halted core stays as it is (60_exceptions.md R133). -/
theorem step_of_rest {s : State} (h : s.runState = .idle ∨ s.runState = .halted) : step s = .next s := by
  rcases h with h | h <;> simp [step, engineStep, h]

/-- 40_engine.md R68. -/
theorem step_of_budget_zero {s : State} (hl : s.live = true) (hb : s.budget = 0) :
    step s = .next (s.halt .budgetExhausted) := by
  rw [step_live s hl, if_pos hb]

/-- 40_engine.md R69. -/
theorem step_of_decode_error {s : State} {e : DecodeError} (hl : s.live = true) (hb : s.budget ≠ 0)
    (he : decode s.fetchBytes = .error e) :
    step s = .next ({ s with budget := s.budget - 1 }.halt .unknownOpcode) := by
  rw [step_live s hl, if_neg hb, he]

/-- A step that decodes an instruction runs it. -/
theorem step_of_decode_ok {s : State} {i : Instr} {rest : List Byte} (hl : s.live = true) (hb : s.budget ≠ 0)
    (he : decode s.fetchBytes = .ok (i, rest)) : step s = runInstr i s := by
  rw [step_live s hl, if_neg hb, he]

/-- 40_engine.md R84. -/
theorem step_of_short_budget {s : State} {i : Instr} {rest : List Byte} (hl : s.live = true) (hb : s.budget ≠ 0)
    (he : decode s.fetchBytes = .ok (i, rest)) (hc : s.budget < cost i s) :
    step s = .next (s.raiseFault .cycleUnderflow) := by
  rw [step_of_decode_ok hl hb he, runInstr_eq, if_pos hc]

/-- 40_engine.md R67 and R83: the instruction's state, its cost charged. -/
theorem step_of_paid_instr {s : State} {i : Instr} {rest : List Byte} (hl : s.live = true) (hb : s.budget ≠ 0)
    (he : decode s.fetchBytes = .ok (i, rest)) (hc : cost i s ≤ s.budget) :
    step s = .next { execState i (s.advancePc 1) with budget := s.budget - cost i s } := by
  rw [step_of_decode_ok hl hb he, runInstr_eq, if_neg (Nat.not_lt.mpr hc)]

/-! ### The memory -/

/-- Settles O51: only an executed instruction touches the memory, and `execState_wf` covers each. -/
theorem stepKeepsMemoryCanonical : Obligations.StepKeepsMemoryCanonical := by
  intro s t hw h
  obtain ⟨rfl, -⟩ | ⟨-, -, rfl⟩ | ⟨-, -, -, rfl⟩ | ⟨-, -, -, -, -, -, rfl⟩ | ⟨i, -, -, -, -, -, rfl⟩ := step_cases h
  case inr.inr.inr.inr =>
    obtain ⟨-, -, hreset, -, -, hparams, -⟩ := execState_control i (s.advancePc 1)
    exact ⟨execState_wf i (s.advancePc 1) hw, hparams, hreset⟩
  all_goals exact ⟨hw, rfl, rfl⟩

/-! ### The control state -/

theorem State.live_iff {s : State} : s.live = true ↔ s.runState = .running ∧ s.resetDone = true := by
  simp [State.live]

/-- Inside a call no reason stands. -/
theorem State.controlOk_of_live {s : State} (hl : s.live = true) :
    s.controlOk = true ↔ s.haltReason = .none ∧ s.faultReason = .none := by
  obtain ⟨hrun, hreset⟩ := State.live_iff.mp hl
  simp [State.controlOk, hrun, hreset]

/-- A clean halt of a consistent core inside a call is consistent, if it has a reason that fits the budget. -/
theorem State.controlOk_halt {s : State} {r : HaltReason} (hl : s.live = true) (hok : s.controlOk = true)
    (hr : r ≠ .none) (hb : r = .budgetExhausted → s.budget = 0) : (s.halt r).controlOk = true := by
  obtain ⟨-, hfault⟩ := (State.controlOk_of_live hl).mp hok
  obtain ⟨-, hreset⟩ := State.live_iff.mp hl
  simpa [State.controlOk, hr, hfault, hreset, ← imp_iff_not_or] using hb

/-- CycleUnderflow in a consistent core inside a call is consistent. -/
theorem State.controlOk_raiseFault_cycleUnderflow {s : State} (hl : s.live = true) (hok : s.controlOk = true) :
    (s.raiseFault .cycleUnderflow).controlOk = true := by
  obtain ⟨hhalt, -⟩ := (State.controlOk_of_live hl).mp hok
  obtain ⟨-, hreset⟩ := State.live_iff.mp hl
  simp [State.controlOk, hhalt, hreset]

/-- An instruction leaves a core inside a call inside it, with no reason, whatever it is charged. -/
theorem State.controlOk_execState (i : Instr) {s : State} (n : Nat) (hl : s.live = true) (hok : s.controlOk = true) :
    ({ execState i (s.advancePc 1) with budget := n } : State).controlOk = true := by
  obtain ⟨hhalt, hfault⟩ := (State.controlOk_of_live hl).mp hok
  obtain ⟨hrun, hreset⟩ := State.live_iff.mp hl
  obtain ⟨-, erun, ereset, ehalt, efault, -, -⟩ := execState_control i (s.advancePc 1)
  simp [State.controlOk, erun, ereset, ehalt, efault, hrun, hreset, hhalt, hfault]

/-- Settles O52: by the branches of the step, one rule above for each way a call goes on or ends. -/
theorem stepKeepsControlConsistent : Obligations.StepKeepsControlConsistent := by
  intro s t hok h
  obtain ⟨rfl, -⟩ | ⟨hl, hb, rfl⟩ | ⟨hl, -, -, rfl⟩ | ⟨-, -, hl, -, -, -, rfl⟩ | ⟨i, -, hl, -, -, -, rfl⟩ :=
    step_cases h
  · exact hok
  · exact State.controlOk_halt hl hok (by simp) (fun _ => hb)
  · have hl' : ({ s with budget := s.budget - 1 } : State).live = true := hl
    have hok' : ({ s with budget := s.budget - 1 } : State).controlOk = true :=
      (State.controlOk_of_live hl').mpr ((State.controlOk_of_live hl).mp hok)
    exact State.controlOk_halt hl' hok' (by simp) (by simp)
  · exact State.controlOk_raiseFault_cycleUnderflow hl hok
  · exact State.controlOk_execState i _ hl hok

/-! ### The budget -/

/-- Settles O13: the only step that stays in the call runs an instruction, which costs at least two cycles it can pay. -/
theorem budgetNeverIncreases : Obligations.BudgetNeverIncreases := by
  intro s t h
  obtain ⟨rfl, hrest⟩ | ⟨-, -, rfl⟩ | ⟨-, -, -, rfl⟩ | ⟨-, -, -, -, -, -, rfl⟩ | ⟨i, -, -, -, -, hc, rfl⟩ := step_cases h
  · exact ⟨le_rfl, fun hrun => by simp [hrun] at hrest⟩
  · exact ⟨le_rfl, nofun⟩
  · exact ⟨Nat.sub_le _ _, nofun⟩
  · exact ⟨le_rfl, nofun⟩
  · have hpos := cost_pos i s
    exact ⟨Nat.sub_le _ _, fun _ => Nat.sub_lt (by omega) (by omega)⟩

end Sys2Proof.Machine
end

section
/-! PROOFS. The packed status byte and the host control port: what each host action answers outside RUNNING, and that each
keeps the invariant. -/

namespace Sys2Proof.Machine

/-! ### The packed status byte -/

theorem getElem_flagAt (f : Bool) (k j : Nat) (hj : j < 8) : (flagAt f k)[j] = (decide (j = k) && f) := by
  cases f
  · simp [flagAt]
  · rcases Nat.lt_trichotomy j k with h | rfl | h
    · simp [flagAt, h, h.ne]
    · simp [flagAt]
    · simp [flagAt, h.ne', show ¬j < k by omega, show j - k ≠ 0 by omega]

/-- Settles O27: bit k of the packed byte comes from the one flag shifted to k. -/
theorem flagsHaveFixedBits : Obligations.FlagsHaveFixedBits := by
  refine ⟨fun f => ?_, fun b => ⟨rfl, rfl, rfl, rfl, rfl, rfl, rfl, rfl⟩⟩
  simp [Flags.pack, getElem_flagAt]

theorem unpackFlags_pack (f : Flags) : unpackFlags f.pack = f := by
  obtain ⟨hc, hz, hi, hd, hb, hu, hv, hn⟩ := flagsHaveFixedBits.1 f
  simp only [unpackFlags, hc, hz, hi, hd, hb, hu, hv, hn]

theorem pack_unpackFlags (b : Byte) : (unpackFlags b).pack = b := by
  obtain ⟨hc, hz, hi, hd, hb, hu, hv, hn⟩ := flagsHaveFixedBits.1 (unpackFlags b)
  refine BitVec.eq_of_getLsbD_eq fun k hk => ?_
  interval_cases k
  exacts [hc, hz, hi, hd, hb, hu, hv, hn]

/-- Settles O28. -/
theorem packAndUnpackAreLossless : Obligations.PackAndUnpackAreLossless := ⟨unpackFlags_pack, pack_unpackFlags⟩

/-! ### Replacing one element -/

theorem Flags.get_set (F : Flags) (f g : FlagName) (v : Bool) :
    (F.set f v).get g = if g = f then v else F.get g := by
  cases f <;> cases g <;> rfl

@[simp] theorem Flags.set_set_get (F : Flags) (f : FlagName) (v : Bool) : (F.set f v).set f (F.get f) = F := by
  cases f <;> rfl

@[simp] theorem State.getReg_setReg_same (s : State) (r : RegName) (v : Byte) : (s.setReg r v).getReg r = v := by
  cases r <;> rfl

@[simp] theorem State.setReg_setReg_getReg (s : State) (r : RegName) (v : Byte) :
    (s.setReg r v).setReg r (s.getReg r) = s := by
  cases r <;> rfl

@[simp] theorem State.setReg_runState (s : State) (r : RegName) (v : Byte) : (s.setReg r v).runState = s.runState := by
  cases r <;> rfl

@[simp] theorem State.setReg_resetDone (s : State) (r : RegName) (v : Byte) :
    (s.setReg r v).resetDone = s.resetDone := by
  cases r <;> rfl

@[simp] theorem State.setReg_inv (s : State) (r : RegName) (v : Byte) : (s.setReg r v).inv = s.inv := by
  cases r <;> rfl

/-! ### Host reads outside RUNNING -/

theorem hostRead_of_resetDone {α : Type} {s : State} (hs : s.runState ≠ .running) (hd : s.resetDone = true) (v : α) :
    hostRead s v = .next v := by
  rw [hostRead, whenStopped_of_ne hs, if_pos hd]

theorem hostRead_of_not_resetDone {α : Type} {s : State} (hs : s.runState ≠ .running) (hd : s.resetDone = false)
    (v : α) : hostRead s v = .fault .noValueBeforeReset := by
  rw [hostRead, whenStopped_of_ne hs, if_neg (by simp [hd])]

theorem withHostAddress_of_lt {α : Type} {addr : Nat} (h : addr < 65536) (f : Addr → Host.Outcome α Fault Refusal) :
    withHostAddress addr f = f (BitVec.ofNat 16 addr) := if_pos h

theorem withHostAddress_of_le {α : Type} {addr : Nat} (h : 65536 ≤ addr) (f : Addr → Host.Outcome α Fault Refusal) :
    withHostAddress addr f = .fault .addressOutOfRange := if_neg (Nat.not_lt.mpr h)

theorem hostReadByte_of_lt {s : State} (hs : s.runState ≠ .running) {addr : Nat} (h : addr < 65536) :
    hostReadByte s addr = hostRead s (s.readByte (BitVec.ofNat 16 addr)) := by
  rw [hostReadByte, whenStopped_of_ne hs, withHostAddress_of_lt h]

/-- Settles O18: every read goes through `hostRead`, which faults before the first reset. -/
theorem readsBeforeResetFault : Obligations.ReadsBeforeResetFault := by
  refine ⟨fun _ => rfl, fun s hs hd => ?_⟩
  have hread {α : Type} (v : α) := hostRead_of_not_resetDone hs hd v
  exact ⟨fun _ => hread _, hread _, fun _ => hread _, fun a ha => (hostReadByte_of_lt hs ha).trans (hread _)⟩

/-! ### Host writes outside RUNNING -/

theorem hostWriteByte_of_lt {s : State} (hs : s.runState ≠ .running) {addr : Nat} (h : addr < 65536) (v : Byte) :
    hostWriteByte s addr v = .next (s.writeByte (BitVec.ofNat 16 addr) v) := by
  rw [hostWriteByte, whenStopped_of_ne hs, withHostAddress_of_lt h]

/-- Two addresses of the host's numbering are one address of the core exactly when they are equal. -/
theorem ofNat_addr_eq_iff {a b : Nat} (ha : a < 65536) (hb : b < 65536) :
    (BitVec.ofNat 16 b : Addr) = BitVec.ofNat 16 a ↔ b = a := by
  rw [← BitVec.toNat_inj, BitVec.toNat_ofNat, BitVec.toNat_ofNat, Nat.mod_eq_of_lt ha, Nat.mod_eq_of_lt hb]

/-- The host reads back the byte it wrote, and every other byte as it was. -/
theorem hostReadByte_writeByte {s : State} (hs : s.runState ≠ .running) (hd : s.resetDone = true) {a b : Nat}
    (ha : a < 65536) (hb : b < 65536) (v : Byte) :
    hostReadByte (s.writeByte (BitVec.ofNat 16 a) v) b = if b = a then .next v else hostReadByte s b := by
  rw [hostReadByte_of_lt (s := s.writeByte _ v) hs hb, hostReadByte_of_lt hs hb,
    hostRead_of_resetDone (s := s.writeByte _ v) hs hd, hostRead_of_resetDone hs hd, State.readByte_writeByte]
  simp only [ofNat_addr_eq_iff ha hb]
  split <;> rfl

/-- Settles O17: each write answers the state with the one element replaced, and a replacement reads back and undoes. -/
theorem hostWritesOneElement : Obligations.HostWritesOneElement := by
  intro s hs hd
  refine ⟨fun r v => ⟨s.setReg r v, whenStopped_of_ne hs _, ?_, by simp⟩,
    fun v => ⟨{ s with pc := v }, whenStopped_of_ne hs _, hostRead_of_resetDone (by exact hs) hd v, rfl⟩,
    fun f v => ⟨{ s with flags := s.flags.set f v }, whenStopped_of_ne hs _, ?_, by simp⟩,
    fun a v ha => ⟨s.writeByte (BitVec.ofNat 16 a) v, hostWriteByte_of_lt hs ha v, rfl,
      fun b hb => hostReadByte_writeByte hs hd ha hb v⟩,
    fun a v ha => ⟨?_, ?_⟩⟩
  · refine (hostRead_of_resetDone (by simpa using hs) (by simpa using hd) _).trans ?_
    rw [State.getReg_setReg_same]
  · refine (hostRead_of_resetDone (by exact hs) hd _).trans ?_
    rw [Flags.get_set, if_pos rfl]
  · rw [hostWriteByte, whenStopped_of_ne hs, withHostAddress_of_le ha]
  · rw [hostReadByte, whenStopped_of_ne hs, withHostAddress_of_le ha]

/-- Settles O16: every host action is guarded by `whenStopped`, which answers no value in RUNNING. -/
theorem hostIsLockedOutWhileRunning : Obligations.HostIsLockedOutWhileRunning := by
  intro s hrun
  have refused {α : Type} {o : Host.Outcome α Fault Refusal} {v : α} (h : whenStopped s o = .next v) : False :=
    (whenStopped_next h).1 hrun
  exact ⟨fun _ _ _ => refused, fun _ _ => refused, fun _ _ _ => refused, fun _ _ _ => refused, fun _ _ _ => refused,
    fun _ => refused, fun _ _ => refused⟩

/-! ### Reset -/

/-- The state reset leaves: it keeps nothing of the old state but the parameters. -/
def State.afterReset (p : Params) : State :=
  { State.reset with pc := p.resetVector, params := p }

theorem hostReset_of_ne {s : State} (hs : s.runState ≠ .running) : hostReset s = .next (State.afterReset s.params) := by
  rw [hostReset, whenStopped_of_ne hs]
  rfl

theorem Flags.pack_clear : Flags.clear.pack = 0x00 := by decide

theorem Flags.get_clear (f : FlagName) : Flags.clear.get f = false := by
  cases f <;> rfl

theorem State.readByte_afterReset (p : Params) (a : Addr) : (State.afterReset p).readByte a = 0x00 := rfl

theorem State.inv_afterReset (p : Params) : (State.afterReset p).inv = true := rfl

/-- Settles O19: the state reset leaves depends on the parameters alone, so a second reset leaves it again. -/
theorem resetGivesEveryElement : Obligations.ResetGivesEveryElement := by
  refine ⟨fun s hs => ⟨State.afterReset s.params, hostReset_of_ne hs, ?_⟩, rfl, rfl⟩
  exact ⟨rfl, rfl, rfl, rfl, rfl, Flags.pack_clear, Flags.get_clear, rfl, rfl, rfl, rfl, rfl,
    State.readByte_afterReset s.params, rfl, hostReset_of_ne nofun⟩

/-- Settles O50: both memories are empty, and both control states are IDLE with budget 0 and no reason. -/
theorem resetMeetsTheInvariant : Obligations.ResetMeetsTheInvariant :=
  ⟨State.inv_afterReset Params.default, fun _ => rfl⟩

/-! ### The invariant along a call -/

theorem State.inv_iff {s : State} : s.inv = true ↔ Memory.wf s.mem = true ∧ s.controlOk = true := by
  simp [State.inv]

theorem step_inv {s t : State} (h : step s = .next t) (hi : s.inv = true) : t.inv = true := by
  obtain ⟨hw, hok⟩ := State.inv_iff.mp hi
  exact State.inv_iff.mpr ⟨(stepKeepsMemoryCanonical s t hw h).1, stepKeepsControlConsistent s t hok h⟩

theorem callLoop_inv {n : Nat} {s t : State} (h : callLoop n s = .next t) (hi : s.inv = true) : t.inv = true := by
  induction n generalizing s with
  | zero => cases h; exact hi
  | succ n ih =>
    by_cases hrun : s.runState = .running
    · simp only [callLoop, hrun] at h
      split at h
      · next u hu => exact ih h (step_inv hu hi)
      all_goals cases h
    · rw [callLoop_of_ne _ hrun] at h
      cases h
      exact hi

theorem State.inv_beginCall {s : State} (b : Nat) (hd : s.resetDone = true) (hi : s.inv = true) :
    (s.beginCall b).inv = true := by
  obtain ⟨hw, -⟩ := State.inv_iff.mp hi
  exact State.inv_iff.mpr ⟨hw, by simp [State.controlOk, hd]⟩

/-- The result of a call is read off the state it leaves. -/
theorem runCall_next {s t : State} {b : Nat} {r : ExecuteResult} (h : runCall s b = .next (t, r)) :
    callLoop (b + 1) (s.beginCall b) = .next t ∧ r = t.result := by
  unfold runCall at h
  split at h
  · next u hu => cases h; exact ⟨hu, rfl⟩
  all_goals cases h

/-- Before the first reset a consistent core carries no halt reason. -/
theorem State.haltReason_of_not_resetDone {s : State} (hok : s.controlOk = true) (hd : s.resetDone = false) :
    s.haltReason = .none := by
  cases hr : s.runState <;> simp_all [State.controlOk]

theorem hostExecute_inv {s t : State} {b : Nat} {r : ExecuteResult} (h : hostExecute s b = .next (t, r))
    (hi : s.inv = true) : t.inv = true ∧ r = t.result := by
  obtain ⟨hw, hok⟩ := State.inv_iff.mp hi
  obtain ⟨-, h⟩ := whenStopped_next h
  split at h
  · cases h
    exact ⟨hi, rfl⟩
  · split at h
    · next hd =>
      obtain ⟨hloop, hresult⟩ := runCall_next h
      exact ⟨callLoop_inv hloop (State.inv_beginCall b hd hi), hresult⟩
    · next hd =>
      have hd : s.resetDone = false := by simpa using hd
      have hhalt := State.haltReason_of_not_resetDone hok hd
      cases h
      exact ⟨State.inv_iff.mpr ⟨hw, by simp [State.controlOk, hd, hhalt]⟩, by simp [State.result, hhalt]⟩

/-- A byte write keeps the invariant: the memory stays canonical and the control state is not touched. -/
theorem State.inv_writeByte {s : State} (a : Addr) (v : Byte) (hi : s.inv = true) : (s.writeByte a v).inv = true := by
  obtain ⟨hw, hok⟩ := State.inv_iff.mp hi
  exact State.inv_iff.mpr ⟨s.wf_writeByte a v hw, hok⟩

/-- Settles O53: execute by induction on its loop, a write by the element it replaces. -/
theorem hostActionsKeepTheInvariant : Obligations.HostActionsKeepTheInvariant := by
  intro s t hi
  refine ⟨fun h => ?_, fun b r h => hostExecute_inv h hi, fun r v h => ?_, fun v h => ?_, fun f v h => ?_,
    fun a v h => ?_, fun a v h => ?_⟩
  all_goals obtain ⟨-, h⟩ := whenStopped_next h
  · cases h
    exact State.inv_afterReset s.params
  · cases h
    simpa using hi
  · cases h
    exact hi
  · cases h
    exact hi
  · obtain ⟨-, h⟩ := withHostAddress_next h
    cases h
    exact State.inv_writeByte _ v hi
  · obtain ⟨-, h⟩ := withHostAddress_next h
    cases h
    exact State.inv_writeByte _ _ (State.inv_writeByte _ _ hi)

end Sys2Proof.Machine
end

section
/-! PROOFS. What each instruction writes and reads: which registers, flags and memory bytes an instruction can change, and
which elements its result does not depend on. -/

namespace Sys2Proof.Machine

/-! ### Registers -/

theorem execState_a_of_not_writer {i : Instr} (h : i.mnemonic ∉ [.lda, .pla, .txa, .and]) (s : State) :
    (execState i s).a = s.a := by
  cases i
  case ldaImm | ldaZp | ldaZpX | ldaAbs | pla | txa | andImm => simp [Instr.mnemonic] at h
  case jsr | incZpX | incAbsX | beq | brk =>
    simp only [execState_jsr, execState_incZpX, execState_incAbsX, execState_beq, execState_brk]
  all_goals rfl

theorem execState_x_of_not_tsx {i : Instr} (h : i.mnemonic ≠ .tsx) (s : State) : (execState i s).x = s.x := by
  cases i
  case tsx => exact absurd rfl h
  case jsr | incZpX | incAbsX | beq | brk =>
    simp only [execState_jsr, execState_incZpX, execState_incAbsX, execState_beq, execState_brk]
  all_goals rfl

theorem execState_sp_of_not_writer {i : Instr}
    (h : i.mnemonic ∉ [.txs, .jsr, .rts, .pha, .php, .pla, .plp, .brk, .rti]) (s : State) :
    (execState i s).sp = s.sp := by
  cases i
  case txs | jsr | rts | pha | php | pla | plp | brk | rti => simp [Instr.mnemonic] at h
  case incZpX | incAbsX | beq =>
    simp only [execState_incZpX, execState_incAbsX, execState_beq]
  all_goals rfl

/-- The state an instruction answers. -/
theorem exec_next_iff {i : Instr} {s t : State} : exec i s = .next t ↔ t = execState i s := by
  rw [exec_eq, Host.Outcome.next.injEq, eq_comm]

/-- Settles O55: an instruction outside a register's writers leaves it, and none writes Y or the control state. -/
theorem registerWriters : Obligations.RegisterWriters := by
  intro i s t h
  obtain rfl := exec_next_iff.mp h
  obtain ⟨hbudget, hrun, hreset, hhalt, hfault, hparams, hy⟩ := execState_control i s
  exact ⟨not_imp_comm.mp fun hm => execState_a_of_not_writer hm s,
    not_imp_comm.mp fun hm => execState_x_of_not_tsx hm s, hy,
    not_imp_comm.mp fun hm => execState_sp_of_not_writer hm s,
    hbudget, hrun, hreset, hhalt, hfault, hparams⟩

/-! ### Flags -/

/-- The ways an instruction can leave the flags. -/
theorem execState_flags_cases (i : Instr) (s : State) :
    (execState i s).flags = s.flags ∨
    ((∃ v, (execState i s).flags = s.flags.withZN s.params v) ∧
      (i.mnemonic ∈ [.lda, .pla, .tsx, .txa, .and] ∨ (i.mnemonic = .inc ∧ s.params.incUpdatesZN = true))) ∨
    ((∃ m, (execState i s).flags = s.flags.withBitTest s.a m) ∧ i.mnemonic = .bit) ∨
    ((execState i s).flags = s.flags.withBreak ∧ i.mnemonic = .brk) ∨
    ((∃ b, (execState i s).flags = unpackFlags b) ∧ i.mnemonic ∈ [.plp, .rti]) := by
  cases i
  case ldaImm | ldaZp | ldaZpX | ldaAbs | pla | tsx | txa | andImm =>
    exact .inr (.inl ⟨⟨_, rfl⟩, .inl (by simp [Instr.mnemonic])⟩)
  case incZpX | incAbsX =>
    cases hp : s.params.incUpdatesZN
    · exact .inl (by simp [execState_incZpX, execState_incAbsX, hp])
    · exact .inr (.inl ⟨⟨_, by simp only [execState_incZpX, execState_incAbsX, hp]; rfl⟩, .inr ⟨rfl, rfl⟩⟩)
  case bitZp => exact .inr (.inr (.inl ⟨⟨_, rfl⟩, rfl⟩))
  case brk => exact .inr (.inr (.inr (.inl ⟨by rw [execState_brk], rfl⟩)))
  case plp | rti => exact .inr (.inr (.inr (.inr ⟨⟨_, rfl⟩, by simp [Instr.mnemonic]⟩)))
  case jsr => exact .inl (by rw [execState_jsr])
  case beq => exact .inl (by rw [execState_beq])
  all_goals exact .inl rfl

/-- Settles O56: by the ways an instruction can leave the flags; each way writes only the flags its mnemonics may. -/
theorem flagWriters : Obligations.FlagWriters := by
  intro i s t h
  obtain rfl := exec_next_iff.mp h
  rcases execState_flags_cases i s with e | ⟨⟨v, e⟩, hm⟩ | ⟨⟨m, e⟩, hm⟩ | ⟨e, hm⟩ | ⟨⟨b, e⟩, hm⟩
  · simp [e]
  · refine ⟨by simp [e, Flags.withZN], by simp [e, Flags.withZN], by simp [e, Flags.withZN], fun _ => ?_⟩
    exact hm.imp_left (List.mem_append_left [Mnemonic.bit, .plp, .rti])
  · simp [e, Flags.withBitTest, hm]
  · simp [e, Flags.withBreak, hm]
  · exact ⟨fun _ => hm, fun _ => .tail _ hm, fun _ => .tail _ hm,
      fun _ => .inl (List.mem_append_right [Mnemonic.lda, .pla, .tsx, .txa, .and, .bit] hm)⟩

/-! ### Memory -/

/-- The ways an instruction can leave the memory. -/
theorem execState_mem_cases (i : Instr) (s : State) :
    (execState i s).mem = s.mem ∨
    ((∃ ea v, (execState i s).mem = (s.writeByte ea v).mem) ∧ i.mnemonic ∈ [.sta, .inc]) ∨
    ((∃ v, (execState i s).mem = (s.push8 v).mem) ∧ i.mnemonic ∈ [.pha, .php]) ∨
    ((∃ w, (execState i s).mem = (s.push16 w).mem) ∧ i.mnemonic = .jsr) ∨
    ((∃ w v, (execState i s).mem = ((s.push16 w).push8 v).mem) ∧ i.mnemonic = .brk) := by
  cases i
  case staZp | staAbs => exact .inr (.inl ⟨⟨_, _, rfl⟩, by simp [Instr.mnemonic]⟩)
  case incZpX => exact .inr (.inl ⟨⟨_, _, by rw [execState_incZpX]⟩, by simp [Instr.mnemonic]⟩)
  case incAbsX => exact .inr (.inl ⟨⟨_, _, by rw [execState_incAbsX]⟩, by simp [Instr.mnemonic]⟩)
  case pha | php => exact .inr (.inr (.inl ⟨⟨_, rfl⟩, by simp [Instr.mnemonic]⟩))
  case jsr => exact .inr (.inr (.inr (.inl ⟨⟨_, by rw [execState_jsr]⟩, rfl⟩)))
  case brk => exact .inr (.inr (.inr (.inr ⟨⟨_, _, by rw [execState_brk]⟩, rfl⟩)))
  case beq => exact .inl (by rw [execState_beq])
  all_goals exact .inl rfl

/-- A push changes no byte but the one at the stack address. -/
theorem State.eq_of_readByte_push8_ne {s : State} {v : Byte} {b : Addr}
    (h : (s.push8 v).readByte b ≠ s.readByte b) : b = stackAddr s.sp := by
  rw [State.readByte_push8] at h
  exact of_not_not fun hb => h (if_neg hb)

/-- A word push changes no byte but the two at SP and SP - 1. -/
theorem State.eq_of_readByte_push16_ne {s : State} {w : Addr} {b : Addr}
    (h : (s.push16 w).readByte b ≠ s.readByte b) : b = stackAddr s.sp ∨ b = stackAddr (s.sp - 1) := by
  rw [State.readByte_push16] at h
  by_contra hb
  rw [not_or] at hb
  exact h (by rw [if_neg hb.2, if_neg hb.1])

/-- Each of the three stack addresses a push can write lies in page one. -/
theorem stackPage_of_mem {sp : Byte} {b : Addr}
    (h : b = stackAddr sp ∨ b = stackAddr (sp - 1) ∨ b = stackAddr (sp - 2)) :
    0x0100 ≤ b.toNat ∧ b.toNat ≤ 0x01FF := by
  have page (p : Byte) : 0x0100 ≤ (stackAddr p).toNat ∧ (stackAddr p).toNat ≤ 0x01FF := by
    rw [toNat_stackAddr]
    omega
  obtain rfl | rfl | rfl := h <;> exact page _

/-- A byte that an instruction changes was stored by STA or INC, or pushed at SP, SP - 1 or SP - 2. -/
theorem readByte_execState_ne {i : Instr} {s : State} {b : Addr} (h : (execState i s).readByte b ≠ s.readByte b) :
    i.mnemonic ∈ [.sta, .inc] ∨ (i.mnemonic ∈ [.jsr, .pha, .php, .brk] ∧
      (b = stackAddr s.sp ∨ b = stackAddr (s.sp - 1) ∨ b = stackAddr (s.sp - 2))) := by
  rcases execState_mem_cases i s with e | ⟨-, hm⟩ | ⟨⟨v, e⟩, hm⟩ | ⟨⟨w, e⟩, hm⟩ | ⟨⟨w, v, e⟩, hm⟩
  · exact absurd (State.readByte_congr e b) h
  · exact .inl hm
  · rw [State.readByte_congr e b] at h
    exact .inr ⟨.tail _ (List.mem_append_left [Mnemonic.brk] hm), .inl (State.eq_of_readByte_push8_ne h)⟩
  · rw [State.readByte_congr e b] at h
    exact .inr ⟨by simp [hm], (State.eq_of_readByte_push16_ne h).imp_right .inl⟩
  · rw [State.readByte_congr e b] at h
    refine .inr ⟨by simp [hm], ?_⟩
    by_cases h16 : (s.push16 w).readByte b = s.readByte b
    · rw [← h16] at h
      have hb := State.eq_of_readByte_push8_ne h
      rw [State.push16_sp, sub_sub] at hb
      exact .inr (.inr hb)
    · exact (State.eq_of_readByte_push16_ne h16).imp_right .inl

/-- Settles O57. -/
theorem memoryWriters : Obligations.MemoryWriters := by
  intro i s t b h hne
  obtain rfl := exec_next_iff.mp h
  obtain hm | ⟨hm, hb⟩ := readByte_execState_ne hne
  · refine ⟨List.mem_append_left [Mnemonic.jsr, .pha, .php, .brk] hm, fun hstack => ?_⟩
    simp only [List.mem_cons, List.not_mem_nil, or_false] at hm
    rcases hm with hm | hm <;> simp [hm] at hstack
  · obtain ⟨hlow, hhigh⟩ := stackPage_of_mem hb
    exact ⟨.tail _ (.tail _ hm), fun _ => ⟨hlow, hhigh, hb⟩⟩

/-! ### What no instruction reads -/

/-- No instruction's meaning reads Y. -/
theorem execState_set_y (i : Instr) (s : State) (v : Byte) :
    execState i { s with y := v } = { execState i s with y := v } := by
  cases i
  case incZpX | incAbsX => simp only [execState_incZpX, execState_incAbsX]; rfl
  case beq => simp only [execState_beq]
  all_goals rfl

/-- Settles O58: the same branch of the step is taken, since no test reads Y, and its state differs in Y alone. -/
theorem noInstructionReadsY : Obligations.NoInstructionReadsY := by
  intro s t v h
  obtain ⟨rfl, hrest⟩ | ⟨hl, hb, rfl⟩ | ⟨hl, hb, ⟨e, he⟩, rfl⟩ | ⟨i, rest, hl, hb, he, hc, rfl⟩ |
    ⟨i, rest, hl, hb, he, hc, rfl⟩ := step_cases h
  · exact step_of_rest hrest
  · exact step_of_budget_zero hl hb
  · exact step_of_decode_error (s := { s with y := v }) hl hb he
  · exact step_of_short_budget (s := { s with y := v }) hl hb he hc
  · rw [step_of_paid_instr (s := { s with y := v }) hl hb he hc]
    have hy : execState i (({ s with y := v } : State).advancePc 1) = { execState i (s.advancePc 1) with y := v } :=
      execState_set_y i (s.advancePc 1) v
    simp only [hy]
    rfl

/-- The two flag states are equal but for one flag. -/
def Flags.AgreeBut (f : FlagName) (F G : Flags) : Prop := ∀ g, g ≠ f → G.get g = F.get g

theorem Flags.agreeBut_refl (f : FlagName) (F : Flags) : Flags.AgreeBut f F F := fun _ _ => rfl

theorem Flags.agreeBut_set (f : FlagName) (F : Flags) (v : Bool) : Flags.AgreeBut f F (F.set f v) :=
  fun g hg => (F.get_set f g v).trans (if_neg hg)

theorem Flags.AgreeBut.withZN {f : FlagName} {F G : Flags} (h : Flags.AgreeBut f F G) (p : Params) (v : Byte) :
    Flags.AgreeBut f (F.withZN p v) (G.withZN p v) := by
  intro g hg
  cases g
  case z | n => rfl
  all_goals exact h _ hg

theorem Flags.AgreeBut.withBitTest {f : FlagName} {F G : Flags} (h : Flags.AgreeBut f F G) (acc m : Byte) :
    Flags.AgreeBut f (F.withBitTest acc m) (G.withBitTest acc m) := by
  intro g hg
  cases g
  case z | n | v => rfl
  all_goals exact h _ hg

theorem Flags.AgreeBut.withBreak {f : FlagName} {F G : Flags} (h : Flags.AgreeBut f F G) :
    Flags.AgreeBut f F.withBreak G.withBreak := by
  intro g hg
  cases g
  case b | i => rfl
  all_goals exact h _ hg

/-- The flags are read by PHP and BRK, and Z by BEQ: with other flags any other instruction leaves the same state but for
the flags. -/
theorem execState_set_flags {i : Instr} (hphp : i.mnemonic ≠ .php) (hbrk : i.mnemonic ≠ .brk) (s : State) {G : Flags}
    (hz : i.mnemonic = .beq → G.z = s.flags.z) :
    execState i { s with flags := G } =
      { execState i s with flags := (execState i { s with flags := G }).flags } := by
  cases i
  case php => exact absurd rfl hphp
  case brk => exact absurd rfl hbrk
  case beq => simp only [execState_beq, hz rfl]
  case incZpX | incAbsX => simp only [execState_incZpX, execState_incAbsX]; rfl
  all_goals rfl

/-- No instruction spreads a difference in one flag to another. -/
theorem execState_agreeBut {f : FlagName} (i : Instr) (s : State) {G : Flags} (h : Flags.AgreeBut f s.flags G) :
    Flags.AgreeBut f (execState i s).flags (execState i { s with flags := G }).flags := by
  cases i
  case ldaImm | ldaZp | ldaZpX | ldaAbs | pla | tsx | txa | andImm => exact h.withZN _ _
  case bitZp => exact h.withBitTest _ _
  case incZpX | incAbsX =>
    simp only [execState_incZpX, execState_incAbsX]
    split
    · exact h.withZN _ _
    · exact h
  case plp | rti => exact Flags.agreeBut_refl f _
  case brk =>
    simp only [execState_brk]
    exact h.withBreak
  case jsr => simpa only [execState_jsr] using h
  case beq => simpa only [execState_beq] using h
  all_goals exact h

/-- Settles O59. -/
theorem flagReaders : Obligations.FlagReaders := by
  intro i s f v hphp hbrk hbeq
  have hagree := Flags.agreeBut_set f s.flags v
  have hz (hm : i.mnemonic = .beq) : (s.flags.set f v).z = s.flags.z := hagree .z fun hf => hbeq hf.symm hm
  exact ⟨_, _, exec_eq i s, exec_eq i _, execState_set_flags hphp hbrk s hz, execState_agreeBut i s hagree⟩

end Sys2Proof.Machine
end

section
/-! PROOFS. The memory, its canonical form, words, and the stack page: what a read gives after a write or a push. -/

namespace Sys2Proof.Machine

/-! ### The canonical form -/

@[simp] theorem Memory.read_cons_self (cell : Host.Cell) (rest : Memory) :
    Memory.read (cell :: rest) cell.1 = cell.2 := if_pos rfl

theorem Memory.read_cons_of_ne {cell : Host.Cell} {a : Nat} (h : cell.1 ≠ a) (rest : Memory) :
    Memory.read (cell :: rest) a = Memory.read rest a := if_neg h

theorem Memory.wfFrom_cons_iff {low : Nat} {cell : Host.Cell} {rest : Memory} :
    Memory.wfFrom low (cell :: rest) = true ↔
      low ≤ cell.1 ∧ cell.1 < Config.memorySize ∧ cell.2 ≠ Config.unlistedByte ∧
        Memory.wfFrom (cell.1 + 1) rest = true := by
  simp [Memory.wfFrom, and_assoc]

/-- The head of a canonical list is its least listed address. -/
theorem Memory.head_le_of_read_ne {low a : Nat} {cell : Host.Cell} {rest : Memory}
    (hw : Memory.wfFrom low (cell :: rest) = true) (ha : Memory.read (cell :: rest) a ≠ Config.unlistedByte) :
    cell.1 ≤ a := by
  obtain ⟨-, hsize, hv, hrest⟩ := Memory.wfFrom_cons_iff.mp hw
  have hfrom : Memory.wfFrom cell.1 (cell :: rest) = true := Memory.wfFrom_cons_iff.mpr ⟨le_rfl, hsize, hv, hrest⟩
  exact Nat.le_of_not_lt fun hlt => ha (Memory.read_below _ _ _ hfrom hlt)

/-- A canonical list that holds a cell does not read like the empty one. -/
theorem Memory.not_read_eq_nil {low : Nat} {cell : Host.Cell} {rest : Memory}
    (hw : Memory.wfFrom low (cell :: rest) = true)
    (h : ∀ a < Config.memorySize, Memory.read (cell :: rest) a = Memory.read [] a) : False := by
  obtain ⟨-, hsize, hv, -⟩ := Memory.wfFrom_cons_iff.mp hw
  exact hv ((Memory.read_cons_self cell rest).symm.trans (h cell.1 hsize))

/-- A canonical list starts no later than a canonical list that reads the same. -/
theorem Memory.head_le_of_read_eq {low low' : Nat} {c d : Host.Cell} {m n : Memory}
    (hm : Memory.wfFrom low (c :: m) = true) (hn : Memory.wfFrom low' (d :: n) = true)
    (h : ∀ a < Config.memorySize, Memory.read (c :: m) a = Memory.read (d :: n) a) : c.1 ≤ d.1 := by
  obtain ⟨-, hsize, hv, -⟩ := Memory.wfFrom_cons_iff.mp hn
  refine Memory.head_le_of_read_ne hm ?_
  rwa [h d.1 hsize, Memory.read_cons_self]

/-- Canonical lists are determined by what the addresses of the memory read as. -/
theorem Memory.eq_of_read_eq {m n : Memory} {low low' : Nat} (hm : Memory.wfFrom low m = true)
    (hn : Memory.wfFrom low' n = true) (h : ∀ a < Config.memorySize, Memory.read m a = Memory.read n a) : m = n := by
  induction m generalizing n low low' with
  | nil =>
    cases n with
    | nil => rfl
    | cons d n => exact (Memory.not_read_eq_nil hn fun a ha => (h a ha).symm).elim
  | cons c m ih =>
    cases n with
    | nil => exact (Memory.not_read_eq_nil hm h).elim
    | cons d n =>
      have haddr : c.1 = d.1 :=
        le_antisymm (Memory.head_le_of_read_eq hm hn h) (Memory.head_le_of_read_eq hn hm fun a ha => (h a ha).symm)
      obtain ⟨-, hsize, -, hm'⟩ := Memory.wfFrom_cons_iff.mp hm
      obtain ⟨-, -, -, hn'⟩ := Memory.wfFrom_cons_iff.mp hn
      have hbyte : c.2 = d.2 := by
        have hhead := h c.1 hsize
        rwa [Memory.read_cons_self, haddr, Memory.read_cons_self] at hhead
      have htail : ∀ a < Config.memorySize, Memory.read m a = Memory.read n a := by
        intro a ha
        by_cases hca : c.1 = a
        · rw [Memory.read_below m _ a hm' (by omega), Memory.read_below n _ a hn' (by omega)]
        · have hread := h a ha
          rwa [Memory.read_cons_of_ne hca, Memory.read_cons_of_ne (haddr ▸ hca)] at hread
      rw [Prod.ext haddr hbyte, ih hm' hn' htail]

/-- Settles O54: the heads of the two lists agree, and so do the tails, by induction. -/
theorem canonicalMemoriesAreEqual : Obligations.CanonicalMemoriesAreEqual := by
  intro m n hm hn h
  refine Memory.eq_of_read_eq hm hn fun a ha => ?_
  have haddr := h (BitVec.ofNat 16 a)
  rwa [BitVec.toNat_ofNat, Nat.mod_eq_of_lt (show a < 2 ^ 16 from ha)] at haddr

/-! ### Bytes and words -/

/-- Settles O21. -/
theorem byteWriteChangesOneByte : Obligations.ByteWriteChangesOneByte :=
  fun s a v => ⟨fun b => s.readByte_writeByte a b v, rfl⟩

/-- Of two writes at different addresses, either may be tested first. -/
theorem ite_addr_comm {p q : Addr} (h : p ≠ q) (b : Addr) (x y z : Byte) :
    (if b = q then x else if b = p then y else z) = if b = p then y else if b = q then x else z :=
  ite_ite_comm _ _ _ _ fun hq hp => h (hp.symm.trans hq)

/-- The two addresses of a word differ, at 0xFFFF too. -/
theorem addr_ne_succ (a : Addr) : a ≠ a + 1 := by
  bv_omega

/-- A read after a word write. -/
theorem State.readByte_writeWord (s : State) (a v b : Addr) :
    (s.writeWord a v).readByte b =
      if b = a then loByte v else if b = a + 1 then hiByte v else s.readByte b := by
  rw [State.writeWord, State.readByte_writeByte, State.readByte_writeByte]
  exact ite_addr_comm (addr_ne_succ a) b _ _ _

@[simp] theorem State.readWord_writeWord (s : State) (a v : Addr) : (s.writeWord a v).readWord a = v := by
  rw [State.readWord, State.readByte_writeWord, State.readByte_writeWord, if_neg (addr_ne_succ a).symm, if_pos rfl,
    if_pos rfl, joinBytes_hi_lo]

/-- Settles O22. -/
theorem wordsAreLittleEndian : Obligations.WordsAreLittleEndian :=
  fun s a v => ⟨s.readByte_writeWord a v, s.readWord_writeWord a v, rfl, toNat_joinBytes _ _⟩

/-- Settles O20: reset leaves the empty list of cells, whatever the memory held. -/
theorem resetZeroFillsMemory : Obligations.ResetZeroFillsMemory := by
  intro s t h a
  obtain ⟨hs, -⟩ := whenStopped_next h
  obtain rfl := Host.Outcome.next.inj ((hostReset_of_ne hs).symm.trans h)
  exact State.readByte_afterReset s.params a

/-! ### The stack page -/

/-- Settles O23. -/
theorem stackAddressIsInPageOne : Obligations.StackAddressIsInPageOne := by
  intro sp
  obtain ⟨hlow, hhigh⟩ := stackPage_of_mem (sp := sp) (.inl rfl)
  exact ⟨rfl, hlow, hhigh, toNat_stackAddr sp⟩

/-- Settles O24. -/
theorem pushWritesThenDecrements : Obligations.PushWritesThenDecrements := by
  refine fun s v => ⟨s.readByte_push8 v, ?_, rfl⟩
  rw [State.push8_sp]
  bv_omega

/-- Settles O25. -/
theorem popIncrementsThenReads : Obligations.PopIncrementsThenReads := by
  refine fun s => ⟨?_, rfl, rfl⟩
  rw [State.pop8_snd_sp]
  exact BitVec.toNat_add s.sp 1

/-- The stack addresses of the two bytes of a pushed word differ, at SP = 0x00 too. -/
theorem stackAddr_ne_pred (sp : Byte) : stackAddr sp ≠ stackAddr (sp - 1) := by
  rw [Ne, stackAddr_inj]
  bv_omega

/-- A word pop directly after a push reads the two bytes the push wrote. -/
theorem State.pop16_push16 (s : State) (w : Addr) : (s.push16 w).pop16 = (w, { s.push16 w with sp := s.sp }) := by
  simp only [State.pop16_eq, State.push16_sp, sub_add_cancel, State.readByte_push16, if_neg (stackAddr_ne_pred s.sp),
    if_true, joinBytes_hi_lo]

/-- SP moved twice by one is SP moved by two. -/
theorem sp_sub_two (sp : Byte) : sp - 1 - 1 = sp - 2 := sub_sub sp 1 1

theorem sp_add_two (sp : Byte) : sp + 1 + 1 = sp + 2 := add_assoc sp 1 1

/-- Settles O26. -/
theorem pushedWordPopsBack : Obligations.PushedWordPopsBack := by
  intro s w
  refine ⟨fun b => ?_, (s.push16_sp w).trans (sp_sub_two s.sp), rfl, ?_, ?_, ?_, ?_⟩
  · rw [State.readByte_push16]
    exact ite_addr_comm (stackAddr_ne_pred s.sp) b _ _ _
  · rw [State.pop16_eq, sp_add_two]
  · rw [State.pop16_eq, sp_add_two]
  · rw [State.pop16_push16]
  · rw [State.pop16_push16]

end Sys2Proof.Machine
end

section
/-! PROOFS. The encoding: the decoder and the encoder undo each other, and the opcode byte fixes the instruction's form. -/

namespace Sys2Proof

/-! ### From an instruction to its bytes and back -/

/-- The law of Laws/PerInstr.lean, for the instructions together. -/
theorem encodingStatement (i : Instr) : Laws.Encoding.Statement i := by
  cases i <;> exact ⟨rfl, rfl⟩

/-- Settles O2: only an absolute word has to be put together again, and BEQ's displacement read as a signed number. -/
theorem decodeUndoesEncode : Obligations.DecodeUndoesEncode := by
  intro i rest hw
  cases i
  case ldaAbs w | staAbs w | jsr w | jmpAbs w | jmpInd w | incAbsX w =>
    exact congrArg (fun v => Except.ok (_, rest)) (joinBytes_hi_lo w)
  case beq off => exact congrArg (fun d => Except.ok (Instr.beq d, rest)) (toInt_displacementByte off hw)
  all_goals rfl

/-! ### From bytes to an instruction and back -/

/-- The 25 assigned opcode bytes (30_encoding.md R60). -/
def assignedOpcodes : List Byte :=
  [0x00, 0x08, 0x20, 0x24, 0x28, 0x29, 0x40, 0x48, 0x4C, 0x60, 0x68, 0x6C, 0x85, 0x8A, 0x8D, 0x9A, 0xA5, 0xA9, 0xAD, 0xB5,
    0xBA, 0xEA, 0xF0, 0xF6, 0xFE]

/-- One instruction of each assigned opcode byte, in the bytes' order. -/
def oneInstrPerOpcode : List Instr :=
  [.brk, .php, .jsr 0, .bitZp 0, .plp, .andImm 0, .rti, .pha, .jmpAbs 0, .rts, .pla, .jmpInd 0, .staZp 0, .txa, .staAbs 0,
    .txs, .ldaZp 0, .ldaImm 0, .ldaAbs 0, .ldaZpX 0, .tsx, .nop, .beq 0, .incZpX 0, .incAbsX 0]

theorem map_opcode_oneInstrPerOpcode : oneInstrPerOpcode.map Instr.opcode = assignedOpcodes := rfl

theorem exists_opcode_of_mem {op : Byte} (h : op ∈ assignedOpcodes) : ∃ i : Instr, i.opcode = op := by
  rw [← map_opcode_oneInstrPerOpcode] at h
  obtain ⟨i, -, hi⟩ := List.mem_map.mp h
  exact ⟨i, hi⟩

/-- 30_encoding.md R61. -/
theorem decodeOpcode_of_not_mem {op : Byte} (h : op ∉ assignedOpcodes) (rest : List Byte) :
    decodeOpcode op rest = .error (.unknownOpcode op) := by
  unfold decodeOpcode
  split
  case h_26 => rfl
  all_goals exact absurd (by decide) h

/-- The decoder's arm for the opcode of any instruction reads back what `encode` writes for the instruction it answers. -/
theorem encode_of_decodeOpcode_opcode {i j : Instr} {bytes rest : List Byte}
    (h : decodeOpcode j.opcode bytes = .ok (i, rest)) :
    i.wellFormed = true ∧ j.opcode :: bytes = encode i ++ rest := by
  cases j
  case ldaImm | ldaZp | ldaZpX | staZp | andImm | bitZp | incZpX =>
    obtain ⟨b, rfl, rfl⟩ := (takeByte_eq_ok _ _ _ _).mp h
    exact ⟨rfl, rfl⟩
  case beq =>
    obtain ⟨b, rfl, rfl⟩ := (takeByte_eq_ok _ _ _ _).mp h
    refine ⟨displacementFits_toInt b, ?_⟩
    simp [encode, Instr.opcode, Instr.operandBytes, displacementByte_toInt]
  case ldaAbs | staAbs | jsr | jmpAbs | jmpInd | incAbsX =>
    obtain ⟨lo, hi, rfl, rfl⟩ := (takeWord_eq_ok _ _ _ _).mp h
    refine ⟨rfl, ?_⟩
    simp [encode, Instr.opcode, Instr.operandBytes, wordBytes]
  case rts | pha | php | pla | plp | tsx | txs | txa | nop | brk | rti =>
    obtain ⟨rfl, rfl⟩ := Prod.mk.inj (Except.ok.inj h)
    exact ⟨rfl, rfl⟩

/-- Settles O3: an accepted first byte is some instruction's opcode, and that opcode's arm takes one of three formats. -/
theorem encodeUndoesDecode : Obligations.EncodeUndoesDecode := by
  intro bytes i rest h
  cases bytes with
  | nil => cases h
  | cons op bytes =>
    have hop : op ∈ assignedOpcodes := by
      by_contra hop
      cases (decodeOpcode_of_not_mem hop bytes).symm.trans h
    obtain ⟨j, rfl⟩ := exists_opcode_of_mem hop
    exact encode_of_decodeOpcode_opcode h

/-! ### What the opcode byte fixes -/

/-- Whatever two bytes follow an instruction's opcode, the decoder answers an instruction of the same form. -/
theorem decode_opcode_eq_ok (i : Instr) (b1 b2 : Byte) :
    ∃ j rest, decode [i.opcode, b1, b2] = .ok (j, rest) ∧
      j.opcode = i.opcode ∧ j.mnemonic = i.mnemonic ∧ j.mode = i.mode := by
  cases i <;> exact ⟨_, _, rfl, rfl, rfl, rfl⟩

/-- The first byte that an accepted list holds is the instruction's opcode, and the instruction took its mode's length. -/
theorem opcode_and_length_of_decode {op : Byte} {bytes rest : List Byte} {i : Instr}
    (h : decode (op :: bytes) = .ok (i, rest)) :
    i.opcode = op ∧ (op :: bytes).length = i.mode.length + rest.length := by
  obtain ⟨-, hbytes⟩ := encodeUndoesDecode _ _ _ h
  obtain ⟨hlength, -⟩ := encodingStatement i
  refine ⟨(List.cons.inj hbytes).1.symm, ?_⟩
  rw [hbytes, List.length_append, hlength]

/-- Settles O4: instructions of one opcode byte have the form of the instruction the decoder answers for that byte. -/
theorem opcodeFixesModeAndLength : Obligations.OpcodeFixesModeAndLength := by
  refine ⟨fun i j hij => ?_, fun _ _ _ _ => opcode_and_length_of_decode⟩
  obtain ⟨i', _, hi, -, hmnemonic, hmode⟩ := decode_opcode_eq_ok i 0 0
  obtain ⟨j', _, hj, -, hmnemonic', hmode'⟩ := decode_opcode_eq_ok j 0 0
  rw [← hij, hi] at hj
  obtain ⟨rfl, -⟩ := Prod.mk.inj (Except.ok.inj hj)
  exact ⟨hmnemonic.symm.trans hmnemonic', hmode.symm.trans hmode'⟩

/-- The numbers of the assigned bytes are those 25, each once. -/
theorem filter_assigned_perm :
    ((List.range 256).filter fun k => assignedOpcodes.contains (BitVec.ofNat 8 k)).Perm
      (assignedOpcodes.map BitVec.toNat) := by
  refine (List.perm_ext_iff_of_nodup (List.nodup_range.filter _) (by decide)).mpr fun k => ?_
  simp only [List.mem_filter, List.mem_range, List.contains_iff_mem, List.mem_map]
  constructor
  · exact fun ⟨hk, hmem⟩ => ⟨_, hmem, BitVec.toNat_ofNat .. ▸ Nat.mod_eq_of_lt hk⟩
  · rintro ⟨op, hmem, rfl⟩
    exact ⟨op.isLt, by rwa [BitVec.ofNat_toNat, BitVec.setWidth_eq]⟩

/-- 30_encoding.md R62: 256 bytes, less the 25 assigned ones. -/
theorem length_unassigned :
    ((List.range 256).filter fun k => !assignedOpcodes.contains (BitVec.ofNat 8 k)).length = 231 := by
  have hsum := (List.range 256).length_eq_length_filter_add fun k => assignedOpcodes.contains (BitVec.ofNat 8 k)
  rw [filter_assigned_perm.length_eq, List.length_range, List.length_map] at hsum
  have hassigned : assignedOpcodes.length = 25 := rfl
  omega

/-- Settles O5. -/
theorem unassignedBytesAreUnknown : Obligations.UnassignedBytesAreUnknown := by
  refine ⟨fun op b1 b2 => ⟨fun hop => ?_, decodeOpcode_of_not_mem⟩, length_unassigned⟩
  obtain ⟨i, rfl⟩ := exists_opcode_of_mem hop
  obtain ⟨j, rest, hj, hopcode, -⟩ := decode_opcode_eq_ok i b1 b2
  exact ⟨j, rest, hj, hopcode⟩

/-- Settles O1. -/
theorem exampleWordsDecode : Obligations.ExampleWordsDecode := by
  unfold Obligations.ExampleWordsDecode
  decide

end Sys2Proof
end

section
/-! PROOFS. The engine: the shared flag update, the addressing modes and the cycle costs, and how an execute call runs and
ends. -/

namespace Sys2Proof.Machine

/-! ### The shared update of Z and N -/

/-- Bit 7 of a byte, arithmetically. -/
theorem getLsbD_seven_eq_decide (v : Byte) : v.getLsbD 7 = decide (128 ≤ v.toNat) := by
  have hlt := v.isLt
  rw [BitVec.getLsbD, Nat.testBit_eq_decide_div_mod_eq, decide_eq_decide]
  omega

/-- Bit 6 of a byte, arithmetically. -/
theorem getLsbD_six_eq_decide (v : Byte) : v.getLsbD 6 = decide (64 ≤ v.toNat % 128) := by
  rw [BitVec.getLsbD, Nat.testBit_eq_decide_div_mod_eq, decide_eq_decide]
  omega

/-- Settles O29: N is the bit the parameter names, bit 7 or bit 6. -/
theorem sharedUpdateWritesZeroAndNegative : Obligations.SharedUpdateWritesZeroAndNegative := by
  intro s v
  refine ⟨decide_eq_decide.mpr BitVec.toNat_inj.symm, fun hbit => ?_, fun hbit => ?_, rfl⟩
  · rw [← getLsbD_seven_eq_decide, State.setZN_flags, Flags.withZN, hbit]
    rfl
  · rw [← getLsbD_six_eq_decide, State.setZN_flags, Flags.withZN, hbit]
    rfl

/-! ### The addressing modes -/

@[simp] theorem toNat_zext16 (v : Byte) : (zext16 v).toNat = v.toNat :=
  BitVec.toNat_setWidth_of_le (by decide)

/-- Settles O30. -/
theorem zeroPageAddressesStayInPageZero : Obligations.ZeroPageAddressesStayInPageZero :=
  fun s zp8 => ⟨toNat_zext16 zp8, (toNat_zext16 _).trans (BitVec.toNat_add zp8 s.x)⟩

/-- A branch target as one integer taken modulo 65536. -/
theorem branchTarget_eq_ofInt (next : Addr) (off : Int) :
    branchTarget next off = BitVec.ofInt 16 (next.toNat + off) := by
  rw [BitVec.ofInt_add, BitVec.ofInt_natCast, BitVec.ofNat_toNat, BitVec.setWidth_eq, branchTarget]

theorem toNat_branchTarget (next : Addr) (off : Int) :
    ((branchTarget next off).toNat : Int) = ((next.toNat : Int) + off) % 65536 := by
  rw [branchTarget_eq_ofInt, BitVec.toNat_ofInt]
  exact Int.toNat_of_nonneg (Int.emod_nonneg _ (by decide))

/-- The displacement byte is sign-extended (40_engine.md R81). -/
theorem branchTarget_toInt (next : Addr) (off8 : Byte) :
    branchTarget next off8.toInt = next + off8.signExtend 16 := rfl

/-- Settles O31. -/
theorem wideAddressesWrap : Obligations.WideAddressesWrap := by
  intro s w off8
  refine ⟨?_, rfl, toNat_branchTarget w off8.toInt, branchTarget_toInt w off8⟩
  rw [eaAbsoluteX, BitVec.toNat_add, toNat_zext16]

/-! ### The cycle costs -/

/-- BEQ pays one cycle more when it is taken to another page. -/
theorem cost_beq (off : Int) (s : State) :
    cost (.beq off) s =
      if s.flags.z = true ∧ hiByte (s.pc + 2) ≠ hiByte (branchTarget (s.pc + 2) off) then 3 else 2 := by
  simp only [cost, baseCycles, extraCycles, crossesPage, Bool.and_eq_true, decide_eq_true_eq]
  split <;> rfl

/-- A fetched BEQ has the byte after its opcode as its displacement: the encoder would write that byte. -/
theorem displacement_of_decode_beq {s : State} {off : Int} {rest : List Byte}
    (h : decode s.fetchBytes = .ok (.beq off, rest)) : off = (s.readByte (s.pc + 1)).toInt := by
  obtain ⟨hfits, hbytes⟩ := encodeUndoesDecode _ _ _ h
  obtain ⟨-, htail⟩ := List.cons.inj hbytes
  obtain ⟨hbyte, -⟩ := List.cons.inj htail
  rw [hbyte, toInt_displacementByte off hfits]

/-- Settles O11: the other 24 costs do not look at the state. -/
theorem cycleCostsAreTheTables : Obligations.CycleCostsAreTheTables := by
  refine ⟨fun s b w => by simp [cost, baseCycles, extraCycles], fun s off rest h => ?_⟩
  have hoff := displacement_of_decode_beq h
  refine ⟨hoff, ?_⟩
  rw [cost_beq, hoff, branchTarget_toInt]

/-! ### One step inside a call -/

/-- Settles O6. -/
theorem stepRunsDecodedInstruction : Obligations.StepRunsDecodedInstruction := by
  intro s t i rest hl hb he hc hexec
  obtain rfl := exec_next_iff.mp hexec
  exact step_of_paid_instr hl hb he hc

/-- Settles O10. -/
theorem shortBudgetDoesNotStart : Obligations.ShortBudgetDoesNotStart :=
  fun _ _ _ hl hb he hc => step_of_short_budget hl hb he hc

theorem step_resetDone {s t : State} (h : step s = .next t) : t.resetDone = s.resetDone := by
  obtain ⟨rfl, -⟩ | ⟨-, -, rfl⟩ | ⟨-, -, -, rfl⟩ | ⟨-, -, -, -, -, -, rfl⟩ | ⟨i, -, -, -, -, -, rfl⟩ := step_cases h
  case inr.inr.inr.inr =>
    obtain ⟨-, -, hreset, -⟩ := execState_control i (s.advancePc 1)
    exact hreset
  all_goals rfl

/-- A step inside a call stays in the call or ends it; it does not leave the core IDLE. -/
theorem step_live_or_ended {s t : State} (hl : s.live = true) (h : step s = .next t) :
    t.live = true ∨ t.runState = .halted ∨ t.runState = .faulted := by
  obtain ⟨hrun, hreset⟩ := State.live_iff.mp hl
  obtain ⟨-, hrest⟩ | ⟨-, -, rfl⟩ | ⟨-, -, -, rfl⟩ | ⟨-, -, -, -, -, -, rfl⟩ | ⟨i, -, -, -, -, -, rfl⟩ := step_cases h
  · simp [hrun] at hrest
  · exact .inr (.inl rfl)
  · exact .inr (.inl rfl)
  · exact .inr (.inr rfl)
  · obtain ⟨-, erun, ereset, -⟩ := execState_control i (s.advancePc 1)
    exact .inl (State.live_iff.mpr ⟨erun.trans hrun, ereset.trans hreset⟩)

/-! ### The loop of a call -/

/-- A step that leaves RUNNING ends the loop. -/
theorem callLoop_of_step_ends (n : Nat) {s t : State} (hrun : s.runState = .running) (h : step s = .next t)
    (ht : t.runState ≠ .running) : callLoop (n + 1) s = .next t := by
  rw [callLoop_succ n hrun h, callLoop_of_ne n ht]

/-- Each step that stays in the call lowers the budget, so more steps than the budget has cycles end the loop, and the rest
of them change nothing. -/
theorem callLoop_ends {n : Nat} {s : State} (hl : s.live = true) (hn : s.budget < n) :
    ∃ t, (t.runState = .halted ∨ t.runState = .faulted) ∧ t.budget ≤ s.budget ∧
      ∀ m, n ≤ m → callLoop m s = .next t := by
  induction n generalizing s with
  | zero => exact absurd hn (Nat.not_lt_zero _)
  | succ n ih =>
    obtain ⟨hrun, -⟩ := State.live_iff.mp hl
    obtain ⟨u, hu⟩ := step_next_of_live s hl
    obtain ⟨hle, hlt⟩ := budgetNeverIncreases s u hu
    rcases step_live_or_ended hl hu with hlive | hended
    · have hdrop := hlt (State.live_iff.mp hlive).1
      obtain ⟨t, hended, hbudget, hloop⟩ := ih hlive (by omega)
      refine ⟨t, hended, hbudget.trans hle, fun m hm => ?_⟩
      obtain ⟨m, rfl⟩ := Nat.exists_eq_add_of_lt hm
      rw [callLoop_succ _ hrun hu]
      exact hloop _ (Nat.le_add_right n m)
    · have hstop : u.runState ≠ .running := by rcases hended with h | h <;> simp [h]
      refine ⟨u, hended, hle, fun m hm => ?_⟩
      obtain ⟨m, rfl⟩ := Nat.exists_eq_add_of_lt hm
      exact callLoop_of_step_ends _ hrun hu hstop

/-! ### execute -/

theorem State.live_beginCall {s : State} (hs : s.ready = true) (b : Nat) : (s.beginCall b).live = true := by
  simp only [State.ready, Bool.and_eq_true] at hs
  exact State.live_iff.mpr ⟨rfl, hs.2⟩

/-- What execute answers, from where its loop ends. -/
theorem hostExecute_of_callLoop {s t : State} {b : Nat} (hs : s.ready = true)
    (h : callLoop (b + 1) (s.beginCall b) = .next t) : hostExecute s b = .next (t, t.result) := by
  rw [hostExecute_of_ready hs, runCall, h]

/-- Settles O12: `callLoop_ends` at the start of the call, where the budget is b. -/
theorem everyCallEnds : Obligations.EveryCallEnds := by
  intro s b hs
  obtain ⟨t, hended, hbudget, hloop⟩ := callLoop_ends (State.live_beginCall hs b) (Nat.lt_succ_self b)
  exact ⟨t, hostExecute_of_callLoop hs (hloop _ le_rfl), hended, hbudget, hloop⟩

/-- Settles O9: the first step of the call ends it. -/
theorem unknownOpcodeHaltsEveryCall : Obligations.UnknownOpcodeHaltsEveryCall := by
  intro s b e hs hb he
  have hstep := step_of_decode_error (State.live_beginCall hs b) hb he
  have hreset : s.resetDone = true := (State.live_iff.mp (State.live_beginCall hs b)).2
  exact ⟨hostExecute_of_callLoop hs (callLoop_of_step_ends b rfl hstep nofun), by simp [State.ready, hreset], rfl⟩

/-- A run of k + 1 steps that answers a state is a step and a run of k steps. -/
theorem core_run_succ_next {k : Nat} {s u : State} (h : core.run (k + 1) s = .next u) :
    ∃ t, step s = .next t ∧ core.run k t = .next u := by
  cases hstep : step s with
  | next t => exact ⟨t, rfl, (core_run_next core k s t hstep).symm.trans h⟩
  | fault r => cases (core_run_fault core k s r hstep).symm.trans h
  | refused r =>
    have hstep : core.step s = .refused r := hstep
    simp only [Host.Core.run, hstep] at h
    cases h

theorem core_run_resetDone {k : Nat} {s u : State} (h : core.run k s = .next u) : u.resetDone = s.resetDone := by
  induction k generalizing s with
  | zero => cases h; rfl
  | succ k ih =>
    obtain ⟨t, hstep, hrun⟩ := core_run_succ_next h
    exact (ih hrun).trans (step_resetDone hstep)

/-- A run that ends RUNNING was RUNNING from its start on, so the loop takes the same steps. -/
theorem callLoop_of_core_run {k : Nat} {s u : State} (h : core.run k s = .next u) (hu : u.runState = .running) :
    s.runState = .running ∧ ∀ n, callLoop (n + k) s = callLoop n u := by
  induction k generalizing s with
  | zero => cases h; exact ⟨hu, fun _ => rfl⟩
  | succ k ih =>
    obtain ⟨t, hstep, hrun⟩ := core_run_succ_next h
    obtain ⟨htrun, hloop⟩ := ih hrun
    have hsrun : s.runState = .running := by
      rcases step_live_or_rest hstep with hl | ⟨rfl, -⟩
      · exact (State.live_iff.mp hl).1
      · exact htrun
    exact ⟨hsrun, fun n => (callLoop_succ (n + k) hsrun hstep).trans (hloop n)⟩

/-- A call that reaches a RUNNING state of budget 0 halts there (40_engine.md R68). -/
theorem hostExecute_of_budget_used_up {s u : State} {b k : Nat} (hs : s.ready = true)
    (h : core.run k (s.beginCall b) = .next u) (hu : u.runState = .running) (hb : u.budget = 0) :
    hostExecute s b = .next (u.halt .budgetExhausted, (u.halt .budgetExhausted).result) := by
  have hreset := (core_run_resetDone h).trans (State.live_iff.mp (State.live_beginCall hs b)).2
  have hstep := step_of_budget_zero (State.live_iff.mpr ⟨hu, hreset⟩) hb
  obtain ⟨-, hadd⟩ := callLoop_of_core_run h hu
  have hlong := (hadd (b + 1)).trans (callLoop_of_step_ends b hu hstep nofun)
  obtain ⟨t, hcall, -, -, hloop⟩ := everyCallEnds s b hs
  obtain rfl := Host.Outcome.next.inj ((hloop _ (Nat.le_add_right _ k)).symm.trans hlong)
  exact hcall

/-- Settles O7: execute(0) is the call that has used up its budget after no instruction. -/
theorem emptyBudgetHaltsCleanly : Obligations.EmptyBudgetHaltsCleanly :=
  ⟨fun _ => step_of_budget_zero,
    fun _ hs => hostExecute_of_budget_used_up (k := 0) hs rfl rfl rfl,
    fun _ _ _ _ => hostExecute_of_budget_used_up⟩

/-- Settles O15. -/
theorem executeBeforeResetFaults : Obligations.ExecuteBeforeResetFaults := by
  intro s b hs hd
  have ⟨hrun, hfault⟩ : s.runState ≠ .running ∧ s.runState ≠ .faulted := by rcases hs with h | h <;> simp [h]
  refine ⟨{ runState := .faulted, haltReason := .none, faultReason := .notReset, budget := s.budget }, ?_, rfl⟩
  rw [hostExecute, whenStopped_of_ne hrun, if_neg hfault, if_neg (by simp [hd])]
  rfl

end Sys2Proof.Machine
end

section
/-! PROOFS. The rule of one instruction: an instruction whose bytes stand at PC is the one the step runs. Every instruction's
statement is this rule with its bytes, its cycles and the state it leaves written out. -/

namespace Sys2Proof.Machine

/-- The fetch sees up to three bytes that stand at PC, with whatever follows them. -/
theorem exists_fetchBytes_eq_append {s : State} {code : List Byte} (hlength : code.length ≤ 3)
    (h : s.holds s.pc code = true) : ∃ rest, s.fetchBytes = code ++ rest := by
  match code with
  | [] => exact ⟨_, rfl⟩
  | [_] => exact ⟨_, fetchBytes_of_holds_one h⟩
  | [_, _] => exact ⟨_, fetchBytes_of_holds_two h⟩
  | [_, _, _] => exact ⟨_, fetchBytes_of_holds_three h⟩
  | _ :: _ :: _ :: _ :: _ =>
    simp only [List.length_cons] at hlength
    omega

/-- No encoding is longer than the fetch (30_encoding.md R57). -/
theorem length_encode_le_three (i : Instr) : (encode i).length ≤ 3 := by
  obtain ⟨hlength, -⟩ := encodingStatement i
  rw [hlength]
  cases i.mode <;> decide

/-- An instruction whose encoding stands at PC is decoded. -/
theorem decode_fetchBytes_of_holds {s : State} {i : Instr} (hw : i.wellFormed = true)
    (h : s.holds s.pc (encode i) = true) : ∃ rest, decode s.fetchBytes = .ok (i, rest) := by
  obtain ⟨rest, hfetch⟩ := exists_fetchBytes_eq_append (length_encode_le_three i) h
  exact ⟨rest, hfetch ▸ decodeUndoesEncode i rest hw⟩

/-- An instruction runs as its encoding, its cost and the state it leaves say. -/
theorem State.runsAs_execState (s : State) {i : Instr} (hw : i.wellFormed = true) :
    s.runsAs (encode i) i (cost i s) (execState i (s.advancePc 1)) := by
  refine ⟨exec_eq i (s.advancePc 1), fun hl hcode hpays => ?_⟩
  obtain ⟨rest, hdecode⟩ := decode_fetchBytes_of_holds hw hcode
  have hpos := cost_pos i s
  exact step_of_paid_instr hl (by omega) hdecode hpays

/-- The same rule with the bytes, the cycles and the state left written out. -/
theorem State.runsAs_of_eq {s t : State} {i : Instr} {code : List Byte} {cycles : Nat} (hw : i.wellFormed = true)
    (hcode : encode i = code) (hcost : cost i s = cycles) (ht : execState i (s.advancePc 1) = t) :
    s.runsAs code i cycles t := by
  subst hcode hcost ht
  exact s.runsAs_execState hw

/-- The bytes of an instruction whose operand word is put together from two bytes (30_encoding.md R57). -/
theorem cons_wordBytes_joinBytes (op hi8 lo8 : Byte) : op :: wordBytes (joinBytes hi8 lo8) = [op, lo8, hi8] := by
  rw [wordBytes, loByte_joinBytes, hiByte_joinBytes]

/-- PC moved past the opcode and then past the operand bytes. -/
theorem State.advancePc_advancePc (s : State) (m n : Nat) : (s.advancePc m).advancePc n = s.advancePc (m + n) := by
  simp only [State.advancePc, BitVec.ofNat_add, BitVec.add_assoc]

end Sys2Proof.Machine
end

section
/-! PROOFS. LDA and STA (41_load_store.md). -/

namespace Sys2Proof.Machine

/-! ### LDA -/

/-- Settles O32. -/
theorem loadImmediate : Obligations.LoadImmediate := by
  intro s imm8
  refine State.runsAs_of_eq rfl rfl rfl ?_
  exact congrArg (·.loadA imm8) (s.advancePc_advancePc 1 1)

/-- Settles O33: in each mode, the byte at its address is loaded as an immediate byte is; the PC past the operand does not
reach the address. -/
theorem loadFromMemory : Obligations.LoadFromMemory := by
  refine fun s zp8 lo8 hi8 => ⟨?zeroPage, ?zeroPageX, ?absolute⟩
  case zeroPage =>
    refine State.runsAs_of_eq rfl rfl rfl ?_
    exact congrArg (·.loadA (s.readByte (eaZeroPage zp8))) (s.advancePc_advancePc 1 1)
  case zeroPageX =>
    refine State.runsAs_of_eq rfl rfl rfl ?_
    exact congrArg (·.loadA (s.readByte (eaZeroPageX s zp8))) (s.advancePc_advancePc 1 1)
  case absolute =>
    refine State.runsAs_of_eq rfl (cons_wordBytes_joinBytes _ hi8 lo8) rfl ?_
    exact congrArg (·.loadA (s.readByte (joinBytes hi8 lo8))) (s.advancePc_advancePc 1 2)

/-! ### STA -/

/-- Settles O34. -/
theorem storeZeroPage : Obligations.StoreZeroPage := by
  intro s zp8
  refine ⟨(s.advancePc 2).writeByte (eaZeroPage zp8) s.a, ?_, rfl, fun b => State.readByte_writeByte _ _ b _⟩
  refine State.runsAs_of_eq rfl rfl rfl ?_
  exact congrArg (·.writeByte (eaZeroPage zp8) s.a) (s.advancePc_advancePc 1 1)

/-- Settles O35. -/
theorem storeAbsolute : Obligations.StoreAbsolute := by
  intro s lo8 hi8
  refine ⟨(s.advancePc 3).writeByte (eaAbsolute (joinBytes hi8 lo8)) s.a, ?_, rfl,
    fun b => State.readByte_writeByte _ _ b _⟩
  refine State.runsAs_of_eq rfl (cons_wordBytes_joinBytes _ hi8 lo8) rfl ?_
  exact congrArg (·.writeByte (eaAbsolute (joinBytes hi8 lo8)) s.a) (s.advancePc_advancePc 1 2)

end Sys2Proof.Machine
end

section
/-! PROOFS. JSR, RTS and JMP (42_jump_subroutine.md). -/

namespace Sys2Proof.Machine

/-! ### Code and stack -/

/-- An instruction of one byte stands where its opcode does. -/
theorem State.holds_singleton_iff {s : State} {addr : Addr} {b : Byte} :
    s.holds addr [b] = true ↔ s.readByte addr = b := by
  simp [State.holds]

/-- A word pop reads the word pushed last, whatever has changed outside the memory and SP since the push. -/
theorem State.pop16_of_mem_push16 {s t : State} {w : Addr} (hmem : t.mem = (s.push16 w).mem)
    (hsp : t.sp = (s.push16 w).sp) : t.pop16 = (w, { t with sp := s.sp }) := by
  have hpop := s.pop16_push16 w
  simp only [State.pop16_eq, State.push16_sp, sub_add_cancel, Prod.mk.injEq] at hpop
  simp only [State.pop16_eq, hsp, State.push16_sp, sub_add_cancel, State.readByte_congr hmem, hpop]

/-! ### JSR and RTS -/

/-- R93: the pushed word, the address after the JSR less one, is the address of its last byte. -/
theorem State.runsAs_jsr (s : State) (lo8 hi8 : Byte) :
    s.runsAs [0x20, lo8, hi8] (.jsr (joinBytes hi8 lo8)) 6 { s.push16 (s.pc + 2) with pc := joinBytes hi8 lo8 } := by
  refine State.runsAs_of_eq rfl (cons_wordBytes_joinBytes _ hi8 lo8) rfl ?_
  have hlast : s.pc + 1 + 2 - 1 = s.pc + 2 := by bv_omega
  rw [← hlast]
  rfl

/-- R94: what RTS resumes after is the popped word, whoever pushed it. -/
theorem State.runsAs_rts (s : State) : s.runsAs [0x60] .rts 6 { s.pop16.2 with pc := s.pop16.1 + 1 } :=
  State.runsAs_of_eq rfl rfl rfl rfl

/-- Settles O36: the bytes JSR stores are those of a word push, which O26 gives in the order of the pushes. -/
theorem subroutineCallAndReturn : Obligations.SubroutineCallAndReturn := by
  refine ⟨fun s lo8 hi8 => ?jsr, fun s => ?rts⟩
  case jsr =>
    obtain ⟨hread, -⟩ := pushedWordPopsBack s (s.pc + 2)
    refine ⟨_, s.runsAs_jsr lo8 hi8, ?_, hread⟩
    rw [← sp_sub_two]
    rfl
  case rts =>
    rw [← sp_add_two]
    exact s.runsAs_rts

/-- Settles O47: the RTS pops the word the JSR pushed, and the byte after its address is the one after the JSR. -/
theorem returnUndoesCall : Obligations.ReturnUndoesCall := by
  intro s t lo8 hi8 hlive hcode hbudget hstep hrts
  obtain ⟨-, hcall⟩ := s.runsAs_jsr lo8 hi8
  obtain ⟨-, hreturn⟩ := t.runsAs_rts
  have ht := Host.Outcome.next.inj (hstep.symm.trans (hcall hlive hcode (by omega)))
  have hlive' : t.live = true := by rw [ht]; exact hlive
  have hcode' : t.holds t.pc [0x60] = true := State.holds_singleton_iff.mpr (by rw [ht] at hrts ⊢; exact hrts)
  have hbudget' : t.budget = s.budget - 6 := by rw [ht]
  have hpop : t.pop16 = (s.pc + 2, { t with sp := s.sp }) := State.pop16_of_mem_push16 (by rw [ht]) (by rw [ht])
  have hnext : s.pc + 2 + 1 = s.pc + 3 := by bv_omega
  have hcycles : s.budget - 6 - 6 = s.budget - 12 := by omega
  rw [hreturn hlive' hcode' (by omega), hpop, hbudget', hcycles, ← hnext, ht]
  rfl

/-! ### JMP -/

/-- Settles O37: the jump drops the PC past the operand, and the read of the pointer does not see it. -/
theorem jumps : Obligations.Jumps := by
  refine fun s lo8 hi8 => ⟨?absolute, ?indirect⟩
  case absolute => exact State.runsAs_of_eq rfl (cons_wordBytes_joinBytes _ hi8 lo8) rfl rfl
  case indirect => exact State.runsAs_of_eq rfl (cons_wordBytes_joinBytes _ hi8 lo8) rfl rfl

end Sys2Proof.Machine
end

section
/-! PROOFS. PHA, PHP, PLA and PLP (43_stack.md). -/

namespace Sys2Proof.Machine

/-! ### The pushes -/

/-- R98. -/
theorem State.runsAs_pha (s : State) : s.runsAs [0x48] .pha 3 ((s.advancePc 1).push8 s.a) :=
  State.runsAs_of_eq rfl rfl rfl rfl

/-- R99. -/
theorem State.runsAs_php (s : State) : s.runsAs [0x08] .php 3 ((s.advancePc 1).push8 s.flags.pack) :=
  State.runsAs_of_eq rfl rfl rfl rfl

/-- Settles O38: what either push stores is what a byte push stores. -/
theorem pushes : Obligations.Pushes := by
  refine fun s => ⟨?pha, ?php⟩
  case pha => exact ⟨_, s.runsAs_pha, rfl, (s.advancePc 1).readByte_push8 s.a⟩
  case php => exact ⟨_, s.runsAs_php, rfl, (s.advancePc 1).readByte_push8 s.flags.pack⟩

/-! ### The pulls -/

/-- R100. -/
theorem State.runsAs_pla (s : State) :
    s.runsAs [0x68] .pla 4 ((s.advancePc 1).pop8.2.loadA (s.advancePc 1).pop8.1) :=
  State.runsAs_of_eq rfl rfl rfl rfl

/-- R101. -/
theorem State.runsAs_plp (s : State) :
    s.runsAs [0x28] .plp 4 { (s.advancePc 1).pop8.2 with flags := unpackFlags (s.advancePc 1).pop8.1 } :=
  State.runsAs_of_eq rfl rfl rfl rfl

/-- Settles O39. -/
theorem pulls : Obligations.Pulls := fun s => ⟨s.runsAs_pla, s.runsAs_plp⟩

/-! ### A pull after a push -/

/-- What a step over a one-byte push leaves. -/
theorem State.eq_push8_of_step {s t : State} {v op : Byte} {i : Instr}
    (hrun : s.runsAs [op] i 3 ((s.advancePc 1).push8 v)) (hlive : s.live = true) (hbudget : 3 ≤ s.budget)
    (hop : s.readByte s.pc = op) (hstep : step s = .next t) :
    t = { (s.advancePc 1).push8 v with budget := s.budget - 3 } := by
  obtain ⟨-, hpush⟩ := hrun
  exact Host.Outcome.next.inj (hstep.symm.trans (hpush hlive (State.holds_singleton_iff.mpr hop) hbudget))

section
variable {s t : State} {v : Byte} (ht : t = { (s.advancePc 1).push8 v with budget := s.budget - 3 })
include ht

/-- The pushed byte stands at the stack address of before the push. -/
theorem State.readByte_stackAddr_of_eq_push8 : t.readByte (stackAddr s.sp) = v := by
  rw [ht]
  exact ((s.advancePc 1).readByte_push8 v _).trans (if_pos rfl)

/-- The pop of the next instruction finds the pushed byte and gives SP back. -/
theorem State.pop8_of_eq_push8 :
    (t.advancePc 1).pop8 = (v, { s with pc := s.pc + 2, budget := s.budget - 3, mem := t.mem }) := by
  have hsp : t.sp + 1 = s.sp := by rw [ht]; exact sub_add_cancel s.sp 1
  have hpc : t.pc + 1 = s.pc + 2 := by rw [ht]; exact add_assoc s.pc 1 1
  calc (t.advancePc 1).pop8
      = (t.readByte (stackAddr (t.sp + 1)), { t with pc := t.pc + 1, sp := t.sp + 1 }) := rfl
    _ = (v, { t with pc := s.pc + 2, sp := s.sp }) := by
      rw [hsp, hpc, State.readByte_stackAddr_of_eq_push8 ht]
    _ = (v, { s with pc := s.pc + 2, budget := s.budget - 3, mem := t.mem }) := by rw [ht]; rfl

/-- The instruction after the push, one of four cycles, is paid for by the seven of both. -/
theorem State.step_pull_of_eq_push8 {u : State} {op : Byte} {i : Instr} (hrun : t.runsAs [op] i 4 u)
    (hlive : s.live = true) (hbudget : 7 ≤ s.budget) (hop : t.readByte (s.pc + 1) = op) :
    step t = .next { u with budget := s.budget - 7 } := by
  obtain ⟨-, hpull⟩ := hrun
  have hlive' : t.live = true := by rw [ht]; exact hlive
  have hpc : t.pc = s.pc + 1 := by rw [ht]; rfl
  have hbudget' : t.budget = s.budget - 3 := by rw [ht]
  have hcycles : t.budget - 4 = s.budget - 7 := by omega
  rw [← hcycles]
  exact hpull hlive' (State.holds_singleton_iff.mpr (by rw [hpc]; exact hop)) (by omega)

end

/-- Settles O48: the pull pops the byte the push stored; for the flags, unpack undoes pack. -/
theorem pullUndoesPush : Obligations.PullUndoesPush := by
  refine fun s t hlive hbudget hstep => ⟨fun hpush hpull => ?accumulator, fun hpush hpull => ?flags⟩
  case accumulator =>
    have ht := State.eq_push8_of_step s.runsAs_pha hlive (by omega) hpush hstep
    refine ⟨State.readByte_stackAddr_of_eq_push8 ht, ?_⟩
    rw [State.step_pull_of_eq_push8 ht t.runsAs_pla hlive hbudget hpull, State.pop8_of_eq_push8 ht]
    rfl
  case flags =>
    have ht := State.eq_push8_of_step s.runsAs_php hlive (by omega) hpush hstep
    refine ⟨State.readByte_stackAddr_of_eq_push8 ht, ?_⟩
    rw [State.step_pull_of_eq_push8 ht t.runsAs_plp hlive hbudget hpull, State.pop8_of_eq_push8 ht, unpackFlags_pack]

end Sys2Proof.Machine
end

section
/-! PROOFS. TSX, TXS and TXA (44_transfer.md). -/

namespace Sys2Proof.Machine

/-- R103. -/
theorem State.runsAs_tsx (s : State) : s.runsAs [0xBA] .tsx 2 ((s.advancePc 1).loadX s.sp) :=
  State.runsAs_of_eq rfl rfl rfl rfl

/-- R104. -/
theorem State.runsAs_txs (s : State) : s.runsAs [0x9A] .txs 2 { s.advancePc 1 with sp := s.x } :=
  State.runsAs_of_eq rfl rfl rfl rfl

/-- R105. -/
theorem State.runsAs_txa (s : State) : s.runsAs [0x8A] .txa 2 ((s.advancePc 1).loadA s.x) :=
  State.runsAs_of_eq rfl rfl rfl rfl

/-- Settles O40: TSX and TXA are loads of the copied register and set Z and N as every load does; TXS is no load. -/
theorem transfers : Obligations.Transfers := fun s => ⟨s.runsAs_tsx, s.runsAs_txs, s.runsAs_txa⟩

end Sys2Proof.Machine
end

section
/-! PROOFS. AND, BIT and INC (45_logic_arith.md). -/

namespace Sys2Proof.Machine

/-! ### AND and BIT -/

/-- Settles O41: AND is a load of the result, and sets Z and N as every load does. -/
theorem andImmediate : Obligations.AndImmediate := by
  intro s imm8
  refine State.runsAs_of_eq rfl rfl rfl ?_
  exact congrArg (·.loadA (s.a &&& imm8)) (s.advancePc_advancePc 1 1)

/-- Settles O42: the read and the test do not see the PC, which alone moves past the operand. -/
theorem bitTest : Obligations.BitTest := by
  intro s zp8
  refine State.runsAs_of_eq rfl rfl rfl ?_
  exact congrArg (fun t => { t with flags := s.flags.withBitTest s.a (s.readByte (eaZeroPage zp8)) })
    (s.advancePc_advancePc 1 1)

/-! ### INC -/

/-- The frame of an increment: memory and, under INC_UPDATES_ZN, Z and N. -/
theorem State.incrementByte_eq (s : State) (ea : Addr) :
    s.incrementByte ea =
      { s with
        mem := (s.incrementByte ea).mem
        flags := if s.params.incUpdatesZN = true then s.flags.withZN s.params (s.readByte ea + 1) else s.flags } := by
  apply State.ext
  case flags => exact s.incrementByte_flags ea
  all_goals simp

/-- R109. -/
theorem State.runsAs_incZpX (s : State) (zp8 : Byte) :
    s.runsAs [0xF6, zp8] (.incZpX zp8) 6 ((s.advancePc 2).incrementByte (eaZeroPageX s zp8)) := by
  refine State.runsAs_of_eq rfl rfl rfl ?_
  exact congrArg (·.incrementByte (eaZeroPageX s zp8)) (s.advancePc_advancePc 1 1)

/-- R110. -/
theorem State.runsAs_incAbsX (s : State) (lo8 hi8 : Byte) :
    s.runsAs [0xFE, lo8, hi8] (.incAbsX (joinBytes hi8 lo8)) 7
      ((s.advancePc 3).incrementByte (eaAbsoluteX s (joinBytes hi8 lo8))) := by
  refine State.runsAs_of_eq rfl (cons_wordBytes_joinBytes _ hi8 lo8) rfl ?_
  exact congrArg (·.incrementByte (eaAbsoluteX s (joinBytes hi8 lo8))) (s.advancePc_advancePc 1 2)

/-- Settles O43: in each mode, what is left is the shared increment of the byte at its address. -/
theorem increments : Obligations.Increments := by
  refine fun s zp8 lo8 hi8 => ⟨?zeroPageX, ?absoluteX⟩
  case zeroPageX =>
    exact ⟨_, s.runsAs_incZpX zp8, (s.advancePc 2).incrementByte_eq _, (s.advancePc 2).readByte_incrementByte _⟩
  case absoluteX =>
    exact ⟨_, s.runsAs_incAbsX lo8 hi8, (s.advancePc 3).incrementByte_eq _, (s.advancePc 3).readByte_incrementByte _⟩

end Sys2Proof.Machine
end

section
/-! PROOFS. BEQ and NOP (46_branch_nop.md). -/

namespace Sys2Proof.Machine

/-- A displacement in the range of a byte is that byte read as signed (30_encoding.md R58). -/
theorem exists_eq_toInt_of_wellFormed_beq {off : Int} (hw : (Instr.beq off).wellFormed = true) :
    ∃ off8 : Byte, off = off8.toInt :=
  ⟨displacementByte off, (toInt_displacementByte off hw).symm⟩

/-- R111's cycles, with the target as the sum of the next address and the sign-extended byte. -/
theorem cost_beq_toInt (s : State) (off8 : Byte) :
    cost (.beq off8.toInt) s =
      if s.flags.z = true ∧ hiByte (s.pc + 2 + off8.signExtend 16) ≠ hiByte (s.pc + 2) then 3 else 2 := by
  rw [cost_beq, branchTarget_toInt]
  exact if_congr (and_congr_right' ne_comm) rfl rfl

/-- R111: BEQ past its opcode writes PC alone, and both branches count from the address of the next instruction. -/
theorem execState_beq_advancePc (s : State) (off8 : Byte) :
    execState (.beq off8.toInt) (s.advancePc 1) =
      { s with pc := if s.flags.z = true then s.pc + 2 + off8.signExtend 16 else s.pc + 2 } := by
  have hnext : s.pc + 1 + 1 = s.pc + 2 := add_assoc s.pc 1 1
  rw [← hnext, ← branchTarget_toInt]
  exact execState_beq off8.toInt (s.advancePc 1)

/-- R111: taken or not, the bytes at PC are the encoding of the displacement they hold. -/
theorem State.runsAs_beq (s : State) (off8 : Byte) :
    s.runsAs [0xF0, off8] (.beq off8.toInt)
      (if s.flags.z = true ∧ hiByte (s.pc + 2 + off8.signExtend 16) ≠ hiByte (s.pc + 2) then 3 else 2)
      { s with pc := if s.flags.z = true then s.pc + 2 + off8.signExtend 16 else s.pc + 2 } := by
  have hcode : encode (.beq off8.toInt) = [0xF0, off8] := congrArg (fun b => [0xF0, b]) (displacementByte_toInt off8)
  exact State.runsAs_of_eq (displacementFits_toInt off8) hcode (cost_beq_toInt s off8) (execState_beq_advancePc s off8)

/-- R112. -/
theorem State.runsAs_nop (s : State) : s.runsAs [0xEA] .nop 2 { s with pc := s.pc + 1 } :=
  State.runsAs_of_eq rfl rfl rfl rfl

/-- Settles O44: the branch with its cycles, the displacements that have a byte, and NOP. -/
theorem branchIfZeroAndNoOperation : Obligations.BranchIfZeroAndNoOperation :=
  ⟨State.runsAs_beq, fun _ hw => exists_eq_toInt_of_wellFormed_beq hw, State.runsAs_nop⟩

end Sys2Proof.Machine
end

section
/-! PROOFS. BRK and RTI (47_interrupt.md). -/

namespace Sys2Proof.Machine

/-! ### Interrupt entry and return -/

/-- SP moved three times by one is SP moved by three. -/
theorem sp_sub_three (sp : Byte) : sp - 1 - 1 - 1 = sp - 3 := by
  rw [sp_sub_two]
  exact sub_sub sp 1 2

theorem sp_add_three (sp : Byte) : sp + 1 + 1 + 1 = sp + 3 := by
  rw [sp_add_two]
  exact add_assoc sp 1 2

/-- The third byte of an interrupt entry lies at neither address of the saved word, at any SP. -/
theorem sp_sub_two_ne (sp : Byte) : sp - 2 ≠ sp ∧ sp - 2 ≠ sp - 1 := by
  constructor <;> bv_omega

/-- A read after interrupt entry: the status byte lies below the two bytes of the saved word and meets neither. -/
theorem State.readByte_enterInterrupt (s : State) (w b : Addr) :
    (s.enterInterrupt w).readByte b =
      if b = stackAddr s.sp then hiByte w
      else if b = stackAddr (s.sp - 1) then loByte w
      else if b = stackAddr (s.sp - 2) then s.flags.pack else s.readByte b := by
  have hread : (s.enterInterrupt w).readByte b =
      if b = stackAddr (s.sp - 2) then s.flags.pack else (s.push16 w).readByte b := by
    rw [← sp_sub_two]
    exact (s.push16 w).readByte_push8 s.flags.pack b
  obtain ⟨hword, -⟩ := pushedWordPopsBack s w
  rw [hread, hword]
  by_cases hb : b = stackAddr (s.sp - 2)
  · obtain ⟨hhigh, hlow⟩ := sp_sub_two_ne s.sp
    rw [if_pos hb, if_neg (by rwa [hb, stackAddr_inj]), if_neg (by rwa [hb, stackAddr_inj]), if_pos hb]
  · rw [if_neg hb, if_neg hb]

/-- The frame of interrupt entry: memory, PC, SP, B and I. -/
theorem State.enterInterrupt_frame (s : State) (w : Addr) :
    s.enterInterrupt w =
      { s with
        pc := (s.enterInterrupt w).readWord s.params.irqVector
        sp := s.sp - 3, flags := { s.flags with b := true, i := true }, mem := (s.enterInterrupt w).mem } := by
  apply State.ext
  case sp => exact (s.enterInterrupt_sp w).trans (sp_sub_three s.sp)
  case pc => rfl
  all_goals simp [Flags.withBreak]

/-- Interrupt return gives back the flags and SP of the entry and resumes after the saved word, whatever has changed
outside the memory and SP since. -/
theorem State.leaveInterrupt_of_mem_enterInterrupt {s t : State} {w : Addr} (hmem : t.mem = (s.enterInterrupt w).mem)
    (hsp : t.sp = s.sp - 3) : t.leaveInterrupt = { t with pc := w + 1, sp := s.sp, flags := s.flags } := by
  obtain ⟨hhigh, hlow⟩ := sp_sub_two_ne s.sp
  have hword : s.sp - 1 ≠ s.sp := by bv_omega
  have hsp1 : t.sp + 1 = s.sp - 2 := by bv_omega
  have hsp2 : s.sp - 2 + 1 = s.sp - 1 := by bv_omega
  simp only [State.leaveInterrupt_eq, hsp1, hsp2, sub_add_cancel, State.readByte_congr hmem,
    State.readByte_enterInterrupt, stackAddr_inj, hhigh, hlow, hword, if_true, if_false, unpackFlags_pack,
    joinBytes_hi_lo]

/-! ### BRK -/

/-- R113: the saved word, the address after the opcode less one, is that of the BRK itself. -/
theorem State.runsAs_brk (s : State) : s.runsAs [0x00] .brk 7 ((s.advancePc 1).enterInterrupt s.pc) :=
  State.runsAs_of_eq rfl rfl rfl (congrArg (s.advancePc 1).enterInterrupt (add_sub_cancel_right s.pc 1))

/-- Settles O45: the entry drops the PC past the opcode, and the vector is read from the memory it leaves. -/
theorem softwareInterrupt : Obligations.SoftwareInterrupt := fun s =>
  ⟨_, s.runsAs_brk, (s.advancePc 1).enterInterrupt_frame s.pc, (s.advancePc 1).readByte_enterInterrupt s.pc⟩

/-! ### RTI -/

/-- R114: the PC past the opcode does not reach the return. -/
theorem State.runsAs_rti (s : State) : s.runsAs [0x40] .rti 6 s.leaveInterrupt :=
  State.runsAs_of_eq rfl rfl rfl rfl

/-- Settles O46: the three bytes a return pops stand at SP + 1, SP + 2 and SP + 3. -/
theorem interruptReturn : Obligations.InterruptReturn := by
  intro s
  rw [← sp_add_three, ← sp_add_two]
  exact s.runsAs_rti

/-! ### An RTI after a BRK -/

/-- Settles O49: the RTI pops the status byte and the address the BRK pushed, and the byte after that address is the one
after the BRK. -/
theorem interruptReturnUndoesInterrupt : Obligations.InterruptReturnUndoesInterrupt := by
  intro s t hlive hbrk hbudget hstep hrti
  obtain ⟨-, henter⟩ := s.runsAs_brk
  obtain ⟨-, hleave⟩ := t.runsAs_rti
  have ht := Host.Outcome.next.inj (hstep.symm.trans (henter hlive (State.holds_singleton_iff.mpr hbrk) (by omega)))
  rw [State.enterInterrupt_frame] at ht
  have hlive' : t.live = true := by rw [ht]; exact hlive
  have hbudget' : t.budget = s.budget - 7 := by rw [ht]
  have hreturn : t.leaveInterrupt = { t with pc := s.pc + 1, sp := s.sp, flags := s.flags } :=
    State.leaveInterrupt_of_mem_enterInterrupt (s := s.advancePc 1) (by rw [ht]) (by rw [ht])
  have hcycles : s.budget - 7 - 6 = s.budget - 13 := by omega
  rw [hleave hlive' (State.holds_singleton_iff.mpr hrti) (by omega), hreturn, hbudget', hcycles, ht]
  rfl

end Sys2Proof.Machine
end

section
/-! PROOFS. Unknown opcodes and the FAULTED core (60_exceptions.md). -/

namespace Sys2Proof.Machine

/-! ### Unknown opcodes -/

/-- Settles O8: an error of the decoder ends the step in a clean halt, and neither the charge nor the halt moves the PC. -/
theorem unknownOpcodeHaltsCleanly : Obligations.UnknownOpcodeHaltsCleanly :=
  fun _ _ hlive hbudget herror => step_of_decode_error hlive hbudget herror

/-! ### The FAULTED core -/

/-- A step of a FAULTED core fails with the recorded reason (60_exceptions.md R117). -/
theorem step_of_faulted {s : State} (h : s.runState = .faulted) : step s = .fault (.fatal s.faultReason) := by
  rw [step, engineStep, h]

/-- execute tests FAULTED first, so it does not see the budget or whether a reset was done (60_exceptions.md R121). -/
theorem hostExecute_of_faulted {s : State} (h : s.runState = .faulted) (b : Nat) :
    hostExecute s b = .next (s, s.result) := by
  rw [hostExecute, whenStopped_of_ne (by simp [h]), if_pos h]

/-- Settles O14: neither execute nor a step leaves FAULTED; reset does, since it keeps nothing but the parameters. -/
theorem faultedIsSticky : Obligations.FaultedIsSticky := by
  refine ⟨fun s b hfaulted => ⟨hostExecute_of_faulted hfaulted b, step_of_faulted hfaulted, ?_⟩, fun s => step_of_rest⟩
  have hstopped : s.runState ≠ .running := by simp [hfaulted]
  exact ⟨State.afterReset s.params, hostReset_of_ne hstopped, rfl, rfl⟩

end Sys2Proof.Machine
end
